-- ==== Sys2Proof/Word.lean ====
section
/-! DEFINITION. The word, byte and index types of the part. -/

namespace Sys2Proof

/-- A word of the management port: 4 bytes (00, Conventions). -/
abbrev Word := BitVec 32

/-- One byte of the store. -/
abbrev Byte := BitVec 8

/-- A requester port, P0 to P3. -/
abbrev PortId := Fin 4

/-- A window index, 0 to 31 (R1). -/
abbrev SlotId := Fin 32

/-- A guard index, 0 to 15 (R136). -/
abbrev GuardId := Fin 16

end Sys2Proof
end

