-- ==== Sys2Proof/Syntax.lean ====
section
/-! DEFINITION. The commands of the part: one constructor for each row of spec/opcode_table.json. -/

namespace Sys2Proof

/-- The five access classes of a requester access (R21). -/
inductive AccessClass where
  | read | fetch | write | lockRead | releaseWrite
  deriving DecidableEq, Repr

/-- The sizes of a requester access, in bytes (R22). -/
inductive AccessSize where
  | one | two | four | eight
  deriving DecidableEq, Repr

/-- What began a cold reset: the application of power, or the RESET pin (R173). -/
inductive ColdCause where
  | powerOn | pin
  deriving DecidableEq, Repr

/-- How the store write of a line copy ends: with an error or without, and whether its boundary is taken
before the requests that come together with it (R66; log 35). -/
structure BoundaryEvent where
  err : Bool
  early : Bool
  deriving DecidableEq, Repr

/-- The commands.  A command-word write carries `cnt`, the entry count field of the written word
(CMD bits 15:8, read by SEQ and USEQ only); its other operands are the operand words as they stand
when it is taken (R165, R178). -/
inductive Instr where
  | openWindow (cnt : BitVec 8)
  | openView (cnt : BitVec 8)
  | modify (cnt : BitVec 8)
  | retire (cnt : BitVec 8)
  | query (cnt : BitVec 8)
  | lookup (cnt : BitVec 8)
  | group (cnt : BitVec 8)
  | collect (cnt : BitVec 8)
  | guardSet (cnt : BitVec 8)
  | unguard (cnt : BitVec 8)
  | guardq (cnt : BitVec 8)
  | seq (cnt : BitVec 8)
  | useq (cnt : BitVec 8)
  | engset (cnt : BitVec 8)
  | start (cnt : BitVec 8)
  | urgent (cnt : BitVec 8)
  | stop (cnt : BitVec 8)
  | breakOne (cnt : BitVec 8)
  | setLimit (cnt : BitVec 8)
  | port (cnt : BitVec 8)
  | restart (cnt : BitVec 8)
  /-- A command word whose code names no command (R165). -/
  | unknownCommand (w : Word)
  /-- A command word written while the unit is BUSY (R165). -/
  | commandWordIgnored (w : Word)
  /-- A write to operand word `n` (R166). -/
  | operandWrite (n : Fin 8) (v : Word)
  | eventClear (v : Word)
  | eventEnableWrite (v : Word)
  | faultClear (v : Word)
  /-- A write at management address `a` to a read-only or unused word (R177). -/
  | registerWriteDiscarded (a v : Word)
  | trigREdge
  | trigUEdge
  | paceExpiry
  | holdTimerExpiry (p : PortId)
  | coldReset (c : ColdCause)
  /-- The end of a cold reset, with the strap levels sampled there (R176). -/
  | coldResetEnd (storeSize : BitVec 2) (portsStart : BitVec 4)
  /-- A requester presents an access; a write's bytes are the low bytes of `data`, the byte at the
  lowest address least significant (R22). -/
  | requesterAccess (p : PortId) (c : AccessClass) (z : AccessSize) (a : Word) (data : BitVec 64)
  | storeAccessDone (err : Bool)
  /-- `elapsed`: the microseconds for which the store read was in flight, beyond those that ticks of
  an empty queue have counted (log 21). -/
  | mergingReadDone (err : Bool) (elapsed : Nat)
  | lineCopyReadDone (err : Bool)
  | lineBoundary (e : BoundaryEvent)
  | continuePublish
  deriving DecidableEq, Repr

end Sys2Proof
end

