-- ==== Sys2Proof/Decode.lean ====
section
/-! DEFINITION. The command codes and the word offsets of the management port, and the commands that a
word spells by the bits of spec/opcode_table.json: no row of the table gives bits. -/

namespace Sys2Proof

/-- The command codes (11.3). -/
def codeOpen : BitVec 8 := 0x01
def codeView : BitVec 8 := 0x02
def codeModify : BitVec 8 := 0x03
def codeRetire : BitVec 8 := 0x04
def codeQuery : BitVec 8 := 0x05
def codeLookup : BitVec 8 := 0x06
def codeGroup : BitVec 8 := 0x07
def codeCollect : BitVec 8 := 0x08
def codeGuard : BitVec 8 := 0x10
def codeUnguard : BitVec 8 := 0x11
def codeGuardq : BitVec 8 := 0x12
def codeSeq : BitVec 8 := 0x20
def codeUseq : BitVec 8 := 0x21
def codeEngset : BitVec 8 := 0x22
def codeStart : BitVec 8 := 0x23
def codeUrgent : BitVec 8 := 0x24
def codeStop : BitVec 8 := 0x25
def codeBreak : BitVec 8 := 0x30
def codePort : BitVec 8 := 0x31
def codeRestart : BitVec 8 := 0x3F

/-- The codes that name a command (11.3); every other code, 0x00 included, names none. -/
def commandCodes : List (BitVec 8) :=
  [codeOpen, codeView, codeModify, codeRetire, codeQuery, codeLookup, codeGroup, codeCollect,
   codeGuard, codeUnguard, codeGuardq, codeSeq, codeUseq, codeEngset, codeStart, codeUrgent,
   codeStop, codeBreak, codePort, codeRestart]

/-- The code names a command (11.3). -/
def codeNamesCommand (c : BitVec 8) : Bool := commandCodes.contains c

/-- The command code of a command word: CMD bits 7:0 (11.3). -/
def cmdCode (w : Word) : BitVec 8 := w.extractLsb' 0 8

/-- The entry count of a command word: CMD bits 15:8 (11.3). -/
def cmdCount (w : Word) : BitVec 8 := w.extractLsb' 8 8

/-- The byte offset in the register window that a management address decodes to: the window repeats
every 256 bytes, and an access is of a whole word (R177). -/
def windowOffset (a : Word) : Nat := a.toNat % 256 / 4 * 4

/-- The offsets whose writes act: CMD, OPR0 to OPR7, EVPEND, EVEN, FCLR (R177). -/
def offsetWritable (o : Nat) : Bool :=
  o == 0x008 || (decide (0x010 ≤ o) && decide (o ≤ 0x02C)) || o == 0x050 || o == 0x054 || o == 0x05C

/-- The command of the table row that a word of `nbits` bits spells: none, since no row of the table
gives bits (log 24). -/
def decodeTableWord (_nbits _w : Nat) : Option Instr := none

end Sys2Proof
end

