-- ==== Sys2Proof/Config.lean ====
section
/-! DEFINITION. What the part fixes (sizes, cold values) and the free values the spec leaves open. -/

namespace Sys2Proof.Config

/-- The mark pool holds 8192 marks (R45). -/
def poolSize : Nat := 8192

/-- A page is 4 KiB (00, Conventions). -/
def pageBytes : Nat := 4096

/-- Requester addresses lie below 4 GiB (R15). -/
def addressLimit : Nat := 4294967296

/-- The store size of each STORE_SIZE strap value (00, Straps; R19). -/
def storeBytes (strap : BitVec 2) : Nat := 67108864 * 2 ^ strap.toNat

/-- The hold limit after a cold reset, in microseconds (R135). -/
def coldHoldLimit : Nat := 1000

/-- The pace period counts in units of 100 microseconds (R89). -/
def paceUnit : Nat := 100

/-- The identification word's part code and revision code (11.2). -/
def partCode : Nat := 0x3240
def revisionCode : Nat := 0x01

/-- DESIGN CHOICE (log 2): the strap levels sampled by the cold reset that State.reset follows. -/
def resetStoreStrap : BitVec 2 := 0
def resetPortsStart : BitVec 4 := 0b1111

/-- DESIGN CHOICE (log 6): what a byte of the store reads as that nothing has written. -/
def unwrittenByte : Byte := 0

/-- Free value (log 10, log 12): the byte at an address of the store, or of a read, of which the spec
says that it is unknown or states nothing.  Applied to State's counter and to the address. -/
opaque unstatedByte : Nat → Nat → Byte

/-- Free value (log 11): whether a store write in flight at a cold reset completed.  Applied to State's
counter. -/
opaque interruptedWriteLands : Nat → Bool

end Sys2Proof.Config
end

