-- ==== Sys2Proof/Machine/State.lean ====
section
/-! DEFINITION. The state of the part: every register, table, queue and flag the spec gives it, as plain
data, and its value right after a cold reset. -/

namespace Sys2Proof.Machine

/-! ### The window table (ch. 1) -/

/-- A handle: window index and instance number (R10). -/
structure Handle where
  index : SlotId
  inst : BitVec 8
  deriving DecidableEq, Repr

/-- The kinds of window (R3). -/
inductive Kind where
  | plain | tracked | paired | view
  deriving DecidableEq, Repr

/-- The two banks of a PAIRED window (R61). -/
inductive Bank where
  | a | b
  deriving DecidableEq, Repr

/-- The line sizes: 64, 128, 256 bytes (R2). -/
inductive LineSize where
  | b64 | b128 | b256
  deriving DecidableEq, Repr

/-- A line set: a list of line indices, or WHOLE (R44). -/
inductive LineSet where
  | lines (l : List Nat)
  | whole
  deriving DecidableEq, Repr

/-- The working set with its copy position: the two are present together (R2). -/
structure Working where
  set : LineSet
  pos : Nat
  deriving DecidableEq, Repr

/-- The fields of a PAIRED window beyond those of every window (R2).  `drain` is present exactly when
the window is DRAINING (R5). -/
structure Paired where
  live : Word
  bankA : Word
  bankB : Word
  current : Bank
  gen : BitVec 16
  dirty : LineSet
  work : Option Working
  carry : LineSet
  views : Nat
  drain : Option Nat
  deriving DecidableEq, Repr

/-- A window's kind with the fields present for that kind (R2, R3). -/
inductive Body where
  | plain (live : Word)
  | tracked (live : Word) (dirty : LineSet)
  | paired (p : Paired)
  | view (source : Handle)
  deriving DecidableEq, Repr

/-- A filled slot's record (R2). -/
structure Window where
  base : Word
  pages : Nat
  lineSize : LineSize
  readMask : BitVec 4
  writeMask : BitVec 4
  group : Fin 4
  body : Body
  deriving DecidableEq, Repr

/-- A slot: its instance, and its window unless it is FREE (R1, R2). -/
structure Slot where
  inst : BitVec 8
  win : Option Window
  deriving DecidableEq, Repr

/-- The enable flags of protection groups 1, 2 and 3: open or closed (R18). -/
structure GroupFlags where
  g1 : Bool
  g2 : Bool
  g3 : Bool
  deriving DecidableEq, Repr

/-! ### Access paths and the arbiter (ch. 2) -/

/-- The response codes (R25, 11.5). -/
inductive Resp where
  | ok | portOff | miss | denied | retiring | unpublished | locked | lockHeld | lockLost | guard
  | storeError
  deriving DecidableEq, Repr

/-- A port's state (R23). -/
inductive PortState where
  | active | standby
  deriving DecidableEq, Repr

/-- The two ways a guard reads its word (R141). -/
inductive Signedness where
  | unsigned | signed
  deriving DecidableEq, Repr

/-- What an out-of-range value does (R142). -/
inductive GuardAction where
  | refuse | report
  deriving DecidableEq, Repr

/-- A guard as a write took it at its grant (R140, R143). -/
structure HeldGuard where
  index : GuardId
  offset : Nat
  low : Word
  high : Word
  sign : Signedness
  action : GuardAction
  deriving DecidableEq, Repr

/-- An access with what its lookup gave it: the hit slot and instance, the record copy, the offset and
the line (R13, R14, R26). -/
structure Access where
  cls : AccessClass
  size : AccessSize
  addr : Word
  data : BitVec 64
  handle : Handle
  record : Window
  offset : Nat
  line : Nat
  deriving DecidableEq, Repr

/-- The stages of an access in progress that outlast an event (R23): waiting at the arbiter, its
merging read in flight with the guards it took, or its store access in flight.  The store address is
absent only for the view access of log 12. -/
inductive Stage where
  | waiting
  | merging (guards : List HeldGuard)
  | storing (store : Option Nat)
  deriving DecidableEq, Repr

/-- An access in progress (R23). -/
structure InProgress where
  acc : Access
  stage : Stage
  deriving DecidableEq, Repr

/-- A returned response: the code and, for a read, the covered bytes, lowest address first (R22). -/
structure Response where
  code : Resp
  bytes : List Byte
  deriving DecidableEq, Repr

/-- One access path.  `response` is the answer last returned (log 3). -/
structure Port where
  state : PortState
  access : Option InProgress
  response : Option Response
  deriving DecidableEq, Repr

/-- Who holds the store port (R40). -/
inductive Holder where
  | port (p : PortId)
  | engine
  deriving DecidableEq, Repr

/-! ### The publish unit (ch. 4) -/

/-- The causes of an abandon (R73). -/
inductive AbandonCause where
  | storeError | retired | seq | useq | stop
  deriving DecidableEq, Repr

/-- The publish record, beside the line and its bytes (R62).  `abandons`: the cause of every abandon
requested, first one first.  `waited`: how many of them, and `suspendWaited`: whether the suspend, a line
boundary was taken before, so that the next boundary acts on them (R66; log 35). -/
structure PublishRecord where
  handle : Handle
  idle : Bank
  abandons : List AbandonCause
  suspend : Bool
  waited : Nat := 0
  suspendWaited : Bool := false
  deriving DecidableEq, Repr

/-- The publish unit's state (R62).  The last two are a line copy that a restart left in flight, with
its store offsets, after which the unit is READY (R20, R83). -/
inductive PubUnit where
  | ready
  | reading (r : PublishRecord) (line : Nat)
  | writing (r : PublishRecord) (line : Nat) (bytes : List Byte)
  | paused (r : PublishRecord)
  | orphanReading (src dst len : Nat)
  | orphanWriting (dst : Nat) (bytes : List Byte)
  deriving DecidableEq, Repr

/-! ### The publish engine (ch. 5, 6) -/

inductive EngineState where
  | idle | run | urgent | drain | held | stopping
  deriving DecidableEq, Repr

/-- The state a hold returns to (R84). -/
inductive HeldFrom where
  | run | urgent
  deriving DecidableEq, Repr

/-- Which work the unit's next report belongs to (R84). -/
inductive Purpose where
  | regular | urgent | drain
  deriving DecidableEq, Repr

inductive Mode where
  | single | continuous | stepped
  deriving DecidableEq, Repr

/-- How a pass or an urgent run ended (R99); `partly` is PARTIAL. -/
inductive RunStatus where
  | complete | partly | aborted
  deriving DecidableEq, Repr

/-- The counts of a pass or urgent run in progress (R84, R111).  `copied`: a line copy has been made
for one of its entries (R95). -/
structure WorkReport where
  number : BitVec 16
  published : Nat
  skipped : BitVec 32
  vacant : Nat
  copied : Bool
  deriving DecidableEq, Repr

/-- The pass report and the urgent report (R99, R111).  Status none is code 0 (R99). -/
structure RunReport where
  number : BitVec 16
  status : Option RunStatus
  published : Nat
  skipped : BitVec 32
  vacant : Nat
  deriving DecidableEq, Repr

/-- The regular run in progress (R84). -/
structure RegularRun where
  pos : Nat
  remaining : Option Nat
  deriving DecidableEq, Repr

/-- The urgent run in progress (R111). -/
structure UrgentRun where
  pos : Nat
  work : WorkReport
  deriving DecidableEq, Repr

/-- The outcome of a suspended context (R113). -/
inductive CtxOutcome where
  | waiting | adopted | published | lost
  deriving DecidableEq, Repr

/-- The suspended context (R113). -/
structure SuspendedCtx where
  handle : Handle
  pos : Nat
  outcome : CtxOutcome
  deriving DecidableEq, Repr

/-- The engine configuration (R89). -/
structure EngineConfig where
  mode : Mode
  step : Nat
  autoUrgent : Bool
  paceEnable : Bool
  pacePeriod : Nat
  trigREnable : Bool
  trigUEnable : Bool
  urgeOn : Nat
  urgeOff : Nat
  deriving DecidableEq, Repr

/-- What the publish engine holds (R84, R108, R111).  `paceTimer` is the time to the next expiry in
microseconds, absent while the timer is stopped.  `restartPass` and `restartUrgent`: a SEQ or a USEQ
waits for the report of the publish it asked to abandon (R87, R107). -/
structure Engine where
  state : EngineState
  heldFrom : Option HeldFrom
  regularSeq : List Handle
  urgentList : List Handle
  drainQueue : List Handle
  run : Option RegularRun
  working : Option WorkReport
  regularPending : Bool
  cursor : Nat
  passCounter : BitVec 16
  context : Option SuspendedCtx
  purpose : Option Purpose
  config : EngineConfig
  paceTimer : Option Nat
  passReport : RunReport
  urgentReport : RunReport
  urgentRequested : Bool
  urgentRun : Option UrgentRun
  urgentCounter : BitVec 16
  restartPass : Bool
  restartUrgent : Bool
  deriving DecidableEq, Repr

/-! ### The lock table (ch. 7) and the guard table (ch. 8) -/

inductive LockPhase where
  | heldByPort | releasing
  deriving DecidableEq, Repr

/-- A hold timer: running, or stopped with the remaining time it had and the time for which it has
stood stopped, in microseconds (R120, R123). -/
inductive HoldTimer where
  | running (remaining : Nat)
  | stopped (remaining stoppedFor : Nat)
  deriving DecidableEq, Repr

/-- A lock entry that holds a lock (R120). -/
structure Lock where
  window : Handle
  phase : LockPhase
  timer : Option HoldTimer
  deriving DecidableEq, Repr

/-- A guard's trip record (R136). -/
structure Trip where
  value : Word
  port : PortId
  count : Nat
  deriving DecidableEq, Repr

/-- A SET guard record (R136). -/
structure Guard where
  window : Handle
  offset : Nat
  low : Word
  high : Word
  sign : Signedness
  action : GuardAction
  mask : BitVec 4
  trip : Option Trip
  deriving DecidableEq, Repr

/-! ### The command unit and the event and fault unit (ch. 10) -/

/-- The status values (R164, 11.3). -/
inductive Status where
  | idle | busy | done | accepted | noSpace | badOperand | notFound | wrongKind | retiring
  | protected_ | overlap | storeOverlap | locked | hasViews | miss | duplicate | engineBusy
  | badMode | unknown
  deriving DecidableEq, Repr

/-- The command unit (R164 to R168). -/
structure CommandUnit where
  word : Word
  operands : Vector Word 8
  results : Vector Word 8
  busy : Bool
  status : Status
  code : BitVec 8
  ignored : Bool
  deriving DecidableEq, Repr

/-- The 11 events (11.5). -/
inductive Event where
  | passDone | stepDone | urgentDone | engineIdle | triggerLost | windowFreed | publishFault
  | accessFault | guardTrip | lockBroken | poolOverflow
  deriving DecidableEq, Repr

/-- A fault record (R36, R74, R171): of a port's access, or of a line copy (`write`: WRITE_ERROR). -/
inductive FaultRecord where
  | access (p : PortId) (cls : AccessClass) (addr : Word) (code : Resp) (window : Option SlotId)
  | lineCopy (addr : Word) (write : Bool) (window : SlotId)
  deriving DecidableEq, Repr

inductive DrainOutcome where
  | clean | flushFailed
  deriving DecidableEq, Repr

/-- The retire report (R118).  Zeroed, it names no outcome (R119). -/
structure RetireReport where
  index : SlotId
  inst : BitVec 8
  outcome : Option DrainOutcome
  deriving DecidableEq, Repr

/-- The reset cause (R173). -/
inductive ResetCause where
  | powerOn | pin | restart
  deriving DecidableEq, Repr

/-- The event and fault unit (R169 to R173). -/
structure EventUnit where
  pending : BitVec 11
  enabled : BitVec 11
  capture : Option FaultRecord
  more : Bool
  retireReport : RetireReport
  cause : ResetCause
  deriving DecidableEq, Repr

/-! ### The whole part -/

/-- The part, the store behind it, and the queue of waiting commands, first in, first out. -/
structure State where
  slots : Vector Slot 32
  groups : GroupFlags
  storeStrap : BitVec 2
  ports : Vector Port 4
  grant : Option Holder
  pointer : PortId
  free : Nat
  urgency : Bool
  pubUnit : PubUnit
  continues : Nat
  engine : Engine
  locks : Vector (Option Lock) 4
  holdLimit : Nat
  guards : Vector (Option Guard) 16
  cmd : CommandUnit
  events : EventUnit
  inReset : Option ColdCause
  store : List Host.Cell
  fresh : Nat
  pending : List Instr
  deriving DecidableEq, Repr

/-- The ways a step can stop with a fault. -/
inductive Fault where
  /-- A store access at or above the strapped store size: raised by STORE_ACCESS_DONE,
  MERGING_READ_DONE, LINE_COPY_READ_DONE and LINE_BOUNDARY.  Safe: R16 keeps every region within the
  store, so a run raises it only where a handle has come round after 256 fillings of a slot (R10) while
  one access or one publish was in flight (log 9). -/
  | storeOutside
  deriving DecidableEq, Repr

/-- The ways a step can be refused. -/
inductive Refusal where
  /-- A command with no meaning yet: raised by exec's refused arms only.  Safe. -/
  | notModelled (mnemonic : String)
  deriving DecidableEq, Repr

/-! ### Cold values -/

/-- The configuration's cold values (R89). -/
def EngineConfig.cold : EngineConfig :=
  { mode := .single, step := 1, autoUrgent := false, paceEnable := false, pacePeriod := 100,
    trigREnable := false, trigUEnable := false, urgeOn := 512, urgeOff := 2048 }

/-- A zeroed report (R99, R119). -/
def RunReport.zero : RunReport :=
  { number := 0, status := none, published := 0, skipped := 0, vacant := 0 }

/-- The engine after a cold reset (R104, R119). -/
def Engine.cold : Engine :=
  { state := .idle, heldFrom := none, regularSeq := [], urgentList := [], drainQueue := [],
    run := none, working := none, regularPending := false, cursor := 0, passCounter := 0,
    context := none, purpose := none, config := .cold, paceTimer := none, passReport := .zero,
    urgentReport := .zero, urgentRequested := false, urgentRun := none, urgentCounter := 0,
    restartPass := false, restartUrgent := false }

/-- The command unit after a cold reset (R168). -/
def CommandUnit.cold : CommandUnit :=
  { word := 0, operands := Vector.replicate 8 0, results := Vector.replicate 8 0, busy := false,
    status := .idle, code := 0, ignored := false }

/-- The retire report zeroed (R119). -/
def RetireReport.zero : RetireReport := { index := 0, inst := 0, outcome := none }

/-- The reset cause that a cold reset leaves (R173). -/
def ResetCause.ofCold : ColdCause → ResetCause
  | .powerOn => .powerOn
  | .pin => .pin

/-- The port states that the PORTS_START strap gives: bit n for Pn, 1 ACTIVE (R24). -/
def portStart (straps : BitVec 4) (p : PortId) : Port :=
  { state := if straps.getLsbD p.val then .active else .standby, access := none, response := none }

/-- The part at the end of a cold reset, over a given store (R19, R24, R43, R59, R82, R104, R119, R135,
R145, R168, R176). -/
def State.cold (cause : ColdCause) (size : BitVec 2) (ports : BitVec 4) (store : List Host.Cell)
    (fresh : Nat) (pending : List Instr) : State :=
  { slots := Vector.replicate 32 { inst := 0, win := none },
    groups := { g1 := false, g2 := false, g3 := false },
    storeStrap := size,
    ports := Vector.ofFn (portStart ports),
    grant := none, pointer := 3,
    free := Config.poolSize, urgency := false,
    pubUnit := .ready, continues := 0, engine := .cold,
    locks := Vector.replicate 4 none, holdLimit := Config.coldHoldLimit,
    guards := Vector.replicate 16 none,
    cmd := .cold,
    events := { pending := 0, enabled := 0, capture := none, more := false, retireReport := .zero,
                cause := .ofCold cause },
    inReset := none, store := store, fresh := fresh, pending := pending }

/-- The part right after the cold reset that follows the application of power, with the strap levels of
log 2, a store of which nothing is listed (log 6) and an empty queue. -/
def State.reset : State :=
  State.cold .powerOn Config.resetStoreStrap Config.resetPortsStart [] 0 []

end Sys2Proof.Machine
end

