-- ==== Sys2Proof/Machine/Flags.lean ====
section
/-! DEFINITION. The flags of the part: the event sets and IRQ, the pool urgency flag, the group enable
flags. -/

namespace Sys2Proof.Machine

/-- An event's bit in EVPEND, EVEN and IRQSUM (11.5). -/
def Event.bit : Event → Nat
  | .passDone => 0
  | .stepDone => 1
  | .urgentDone => 2
  | .engineIdle => 3
  | .triggerLost => 4
  | .windowFreed => 5
  | .publishFault => 6
  | .accessFault => 7
  | .guardTrip => 8
  | .lockBroken => 9
  | .poolOverflow => 10

/-- The event as a set of one. -/
def Event.mask (e : Event) : BitVec 11 := BitVec.twoPow 11 e.bit

/-- The event is pending. -/
def State.isPending (s : State) (e : Event) : Bool := s.events.pending.getLsbD e.bit

/-- Raise an event: it becomes a member of the pending set (R169). -/
def raise (e : Event) (s : State) : State :=
  { s with events := { s.events with pending := s.events.pending ||| e.mask } }

/-- The IRQ summary: the events that are pending and enabled (R170). -/
def irqSummary (s : State) : BitVec 11 := s.events.pending &&& s.events.enabled

/-- The IRQ output: high while some event is pending and enabled (R170), low while the part is held in
reset (R176). -/
def irq (s : State) : Bool := s.inReset.isNone && irqSummary s != 0

/-- The urgency flag after a comparison of the free count with the thresholds (R53). -/
def urgencyAfter (on off free : Nat) (flag : Bool) : Bool :=
  if free ≤ on then true else if off ≤ free then false else flag

/-- Compare the free count with the thresholds as they stand (R53, R54). -/
def updateUrgency (s : State) : State :=
  { s with urgency := urgencyAfter s.engine.config.urgeOn s.engine.config.urgeOff s.free s.urgency }

/-- Set the free count, with the comparison of R53 in the same event. -/
def setFree (n : Nat) (s : State) : State := updateUrgency { s with free := n }

/-- The group is open: group 0 always, the others by their flag (R18). -/
def GroupFlags.isOpen (g : GroupFlags) (n : Fin 4) : Bool :=
  match n with
  | 0 => true
  | 1 => g.g1
  | 2 => g.g2
  | 3 => g.g3

/-- Set one flag; group 0 has none (R18, R148). -/
def GroupFlags.set (g : GroupFlags) (n : Fin 4) (v : Bool) : GroupFlags :=
  match n with
  | 0 => g
  | 1 => { g with g1 := v }
  | 2 => { g with g2 := v }
  | 3 => { g with g3 := v }

/-- All three flags closed (R18). -/
def GroupFlags.closed : GroupFlags := { g1 := false, g2 := false, g3 := false }

end Sys2Proof.Machine
end

