-- ==== Sys2Proof/Machine/Ops.lean ====
section
/-! DEFINITION. The named operations over the store, the window table, the change tracker, the lock
table, the fault capture and the command unit. -/

namespace Sys2Proof.Machine

/-! ### The store: bytes by address, in canonical form -/

/-- The canonical form: addresses strictly rising from `lo`, and no entry equal to what an unlisted
address reads as. -/
def Memory.wfFrom (lo : Nat) : List Host.Cell → Bool
  | [] => true
  | (a, v) :: t => decide (lo ≤ a) && v != Config.unwrittenByte && Memory.wfFrom (a + 1) t

/-- The store's canonical form. -/
def Memory.wf (m : List Host.Cell) : Bool := Memory.wfFrom 0 m

/-- One byte of the store. -/
def Memory.byte : List Host.Cell → Nat → Byte
  | [], _ => Config.unwrittenByte
  | (k, v) :: t, a => if k = a then v else Memory.byte t a

/-- Write one byte, keeping the canonical form. -/
def Memory.set : List Host.Cell → Nat → Byte → List Host.Cell
  | [], a, v => if v = Config.unwrittenByte then [] else [(a, v)]
  | (k, x) :: t, a, v =>
    if a < k then (if v = Config.unwrittenByte then (k, x) :: t else (a, v) :: (k, x) :: t)
    else if a = k then (if v = Config.unwrittenByte then t else (a, v) :: t)
    else (k, x) :: Memory.set t a v

/-- Read `n` bytes from `a` up, lowest address first. -/
def Memory.read (m : List Host.Cell) (a : Nat) : Nat → List Byte
  | 0 => []
  | n + 1 => Memory.byte m a :: Memory.read m (a + 1) n

/-- Write bytes from `a` up, lowest address first. -/
def Memory.write (m : List Host.Cell) (a : Nat) : List Byte → List Host.Cell
  | [] => m
  | b :: bs => Memory.write (Memory.set m a b) (a + 1) bs

/-- Bytes of which the spec states nothing: free values (log 10, log 12). -/
def unstatedBytes (k a : Nat) : Nat → List Byte
  | 0 => []
  | n + 1 => Config.unstatedByte k a :: unstatedBytes k (a + 1) n

/-- The store's size, from the straps sampled at the last cold reset (R19). -/
def State.storeSize (s : State) : Nat := Config.storeBytes s.storeStrap

/-- The bytes from `a` to `a + n - 1` lie in the store. -/
def State.inStore (s : State) (a n : Nat) : Bool := decide (a + n ≤ s.storeSize)

def storeRead (s : State) (a n : Nat) : List Byte := Memory.read s.store a n

/-- A store write that completes without an error. -/
def storeWrite (a : Nat) (bs : List Byte) (s : State) : State :=
  { s with store := Memory.write s.store a bs }

/-- A store write that ends with an error: the bytes it covered are unknown (R74, 2.4; log 10). -/
def storeWriteFailed (a n : Nat) (s : State) : State :=
  { s with store := Memory.write s.store a (unstatedBytes s.fresh a n), fresh := s.fresh + 1 }

/-- A run of bytes as a number: the byte at the lowest address is the least significant (R22). -/
def bytesToNat : List Byte → Nat
  | [] => 0
  | b :: bs => b.toNat + 256 * bytesToNat bs

/-- The low `n` bytes of a number, least significant first (R22). -/
def natToBytes (v : Nat) : Nat → List Byte
  | 0 => []
  | n + 1 => BitVec.ofNat 8 v :: natToBytes (v / 256) n

/-! ### Slots, windows and handles -/

def State.slot (s : State) (i : SlotId) : Slot := s.slots[i]
def State.setSlot (i : SlotId) (x : Slot) (s : State) : State :=
  { s with slots := s.slots.set i x }

/-- The window a handle matches, if it matches: its slot is filled and holds its instance (R10). -/
def State.window? (s : State) (h : Handle) : Option Window :=
  if (s.slot h.index).inst = h.inst then (s.slot h.index).win else none

/-- Replace the record in a filled slot; the instance stays. -/
def State.setWindow (i : SlotId) (w : Window) (s : State) : State :=
  s.setSlot i { s.slot i with win := some w }

def LineSize.bytes : LineSize → Nat
  | .b64 => 64
  | .b128 => 128
  | .b256 => 256

def sizeBytes : AccessSize → Nat
  | .one => 1
  | .two => 2
  | .four => 4
  | .eight => 8

/-- A window's size in bytes (R2). -/
def Window.size (w : Window) : Nat := w.pages * Config.pageBytes

/-- A window's line count (R2). -/
def Window.lineCount (w : Window) : Nat := w.size / w.lineSize.bytes

/-- The requester range contains the address (R2, R12). -/
def Window.covers (w : Window) (a : Nat) : Bool :=
  decide (w.base.toNat ≤ a) && decide (a < w.base.toNat + w.size)

def Window.kind (w : Window) : Kind :=
  match w.body with
  | .plain _ => .plain
  | .tracked _ _ => .tracked
  | .paired _ => .paired
  | .view _ => .view

/-- The window is DRAINING (R4, R5). -/
def Window.draining (w : Window) : Bool :=
  match w.body with
  | .paired p => p.drain.isSome
  | .plain _ => false
  | .tracked _ _ => false
  | .view _ => false

/-- The live offset, absent for a VIEW (R2). -/
def Window.live? (w : Window) : Option Nat :=
  match w.body with
  | .plain l => some l.toNat
  | .tracked l _ => some l.toNat
  | .paired p => some p.live.toNat
  | .view _ => none

/-- D, absent for PLAIN and VIEW (R2). -/
def Window.dirty? (w : Window) : Option LineSet :=
  match w.body with
  | .tracked _ d => some d
  | .paired p => some p.dirty
  | .plain _ => none
  | .view _ => none

/-- Replace D in a window that has one. -/
def Window.setDirty (w : Window) (d : LineSet) : Window :=
  match w.body with
  | .tracked l _ => { w with body := .tracked l d }
  | .paired p => { w with body := .paired { p with dirty := d } }
  | .plain _ => w
  | .view _ => w

/-- The PAIRED window a handle matches. -/
def State.paired? (s : State) (h : Handle) : Option (Window × Paired) :=
  match s.window? h with
  | none => none
  | some w =>
    match w.body with
    | .paired p => some (w, p)
    | .plain _ => none
    | .tracked _ _ => none
    | .view _ => none

/-- Replace the PAIRED fields of a window. -/
def State.setPaired (i : SlotId) (w : Window) (p : Paired) (s : State) : State :=
  s.setWindow i { w with body := .paired p }

/-- The store offset of a bank (R61). -/
def Paired.bankOffset (p : Paired) : Bank → Nat
  | .a => p.bankA.toNat
  | .b => p.bankB.toNat

def Bank.other : Bank → Bank
  | .a => .b
  | .b => .a

/-- The port is a member of a mask. -/
def inMask (m : BitVec 4) (p : PortId) : Bool := m.getLsbD p.val

/-- The first slot whose range contains the address (R12); R15 lets at most one do so. -/
def State.lookup (s : State) (a : Nat) : Option SlotId :=
  (List.finRange 32).find? fun i =>
    match (s.slot i).win with
    | none => false
    | some w => w.covers a

/-- The lowest FREE slot (R6). -/
def State.freeSlot? (s : State) : Option SlotId :=
  (List.finRange 32).find? fun i => (s.slot i).win.isNone

/-! ### Line sets and the change tracker (ch. 3) -/

/-- The marks a set holds: one an index, none for WHOLE (R44, R45). -/
def LineSet.marks : LineSet → Nat
  | .lines l => l.length
  | .whole => 0

/-- The marks of W, none when it is absent. -/
def workMarks : Option Working → Nat
  | none => 0
  | some k => k.set.marks

/-- The marks held by a window's D, W and C (R45). -/
def Window.marks (w : Window) : Nat :=
  match w.body with
  | .plain _ => 0
  | .tracked _ d => d.marks
  | .paired p => p.dirty.marks + workMarks p.work + p.carry.marks
  | .view _ => 0

/-- Insert an index at its place; one already present is not inserted again (R44). -/
def insertLine (n : Nat) : List Nat → List Nat
  | [] => [n]
  | m :: t => if n < m then n :: m :: t else if n = m then m :: t else m :: insertLine n t

/-- The union of two lists (R50). -/
def unionLines (d w : List Nat) : List Nat := w.foldr insertLine d

/-- The union of two sets: WHOLE when either is (R50). -/
def LineSet.union : LineSet → LineSet → LineSet
  | .lines d, .lines w => .lines (unionLines d w)
  | .whole, _ => .whole
  | .lines _, .whole => .whole

/-- Mark a line: the hand-over of a write's window, looked-up instance and line (R46, R47).  A line index at or
above the window's line count, which only a handle come round after 256 fillings can bring, is inserted as it
is (the model's choice, log 34). -/
def markLine (h : Handle) (n : Nat) (s : State) : State :=
  match s.window? h with
  | none => s
  | some w =>
    match w.dirty? with
    | none => s
    | some .whole => s
    | some (.lines l) =>
      if n ∈ l then s
      else if s.free = 0 then
        raise .poolOverflow (setFree (s.free + l.length) (s.setWindow h.index (w.setDirty .whole)))
      else setFree (s.free - 1) (s.setWindow h.index (w.setDirty (.lines (insertLine n l))))

/-- The W a publish starts with: a W already present is kept, and otherwise D moves into it (R49,
R63). -/
def Paired.startWork (p : Paired) : Working :=
  match p.work with
  | some k => k
  | none => { set := p.dirty, pos := 0 }

/-- Take D at a publish start (R49): D becomes an empty list unless a W is kept. -/
def Paired.take (p : Paired) : Paired :=
  match p.work with
  | some _ => p
  | none => { p with work := some p.startWork, dirty := .lines [] }

/-- Merge W back into D (R50). -/
def Paired.merge (p : Paired) : Paired :=
  match p.work with
  | none => p
  | some k => { p with dirty := p.dirty.union k.set, work := none }

/-- The merge of a window's W into D, with the marks it frees (R50, R66).  No effect without a W. -/
def mergeWork (h : Handle) (s : State) : State :=
  match s.paired? h with
  | none => s
  | some (w, p) =>
    match p.work with
    | none => s
    | some k =>
      setFree (s.free + (p.dirty.marks + k.set.marks - (p.dirty.union k.set).marks))
        (s.setPaired h.index w p.merge)

/-! ### The lock table (ch. 7) -/

def State.lock (s : State) (p : PortId) : Option Lock := s.locks[p]
def State.setLock (p : PortId) (l : Option Lock) (s : State) : State :=
  { s with locks := s.locks.set p l }

/-- The port's entry holds a lock on this window. -/
def State.holds (s : State) (p : PortId) (h : Handle) : Bool :=
  match s.lock p with
  | none => false
  | some l => l.window == h

/-- The port that holds the window's lock, in either phase (R120). -/
def State.lockHolder (s : State) (h : Handle) : Option PortId :=
  (List.finRange 4).find? fun p => s.holds p h

/-- The window is locked: some entry names it (R120). -/
def State.isLocked (s : State) (h : Handle) : Bool := (s.lockHolder h).isSome

/-- The window of the paused publish. -/
def State.pausedOn (s : State) (h : Handle) : Bool :=
  match s.pubUnit with
  | .paused r => r.handle == h
  | .ready => false
  | .reading _ _ => false
  | .writing _ _ _ => false
  | .orphanReading _ _ _ => false
  | .orphanWriting _ _ => false

/-- The unlock notice: an engine HELD on this window sends the unit a continue (R131). -/
def unlockNotice (h : Handle) (s : State) : State :=
  if s.engine.state = .held ∧ s.pausedOn h then { s with continues := s.continues + 1 } else s

/-- Break a port's lock, if it holds one (R124). -/
def breakLock (p : PortId) (s : State) : State :=
  match s.lock p with
  | none => s
  | some l => unlockNotice l.window (raise .lockBroken (s.setLock p none))

/-- Break the lock on a window, if it is locked (R156). -/
def breakWindowLock (h : Handle) (s : State) : State :=
  match s.lockHolder h with
  | none => s
  | some p => breakLock p s

/-- The timer a new lock starts with: the hold limit, or none while the limit is 0 (R121). -/
def newTimer (limit : Nat) : Option HoldTimer :=
  if limit = 0 then none else some (.running limit)

/-- Take a window's lock for a port (R121). -/
def takeLock (p : PortId) (h : Handle) (s : State) : State :=
  s.setLock p (some { window := h, phase := .heldByPort, timer := newTimer s.holdLimit })

/-- Stop a timer with the remaining time it has (R123), which is never 0 in a run (log 38). -/
def HoldTimer.stop : HoldTimer → HoldTimer
  | .running r => .stopped r 0
  | .stopped r e => .stopped r e

/-- The grant of the holder's RELEASE_WRITE: RELEASING, with the timer stopped (R123). -/
def beginRelease (p : PortId) (s : State) : State :=
  match s.lock p with
  | none => s
  | some l => s.setLock p (some { l with phase := .releasing, timer := l.timer.map HoldTimer.stop })

/-- The completion of a RELEASE_WRITE: its entry, if it still stands, is emptied, with an unlock notice
(R123). -/
def finishRelease (p : PortId) (h : Handle) (s : State) : State :=
  match s.lock p with
  | none => s
  | some l =>
    if l.window = h ∧ l.phase = .releasing then unlockNotice h (s.setLock p none) else s

/-- A RELEASE_WRITE refused GUARD: its entry, if it still stands, is held again and its timer runs on
as though it had not been stopped, expiring now if the time it stood stopped is at least what it had
left (R123, R125).  `elapsed` adds to the time that ticks counted (log 21). -/
def restoreLock (p : PortId) (h : Handle) (elapsed : Nat) (s : State) : State :=
  match s.lock p with
  | none => s
  | some l =>
    if l.window = h ∧ l.phase = .releasing then
      match l.timer with
      | none => s.setLock p (some { l with phase := .heldByPort })
      | some (.running r) => s.setLock p (some { l with phase := .heldByPort, timer := some (.running r) })
      | some (.stopped r e) =>
        if r ≤ e + elapsed then breakLock p s
        else s.setLock p (some { l with phase := .heldByPort, timer := some (.running (r - (e + elapsed))) })
    else s

/-! ### The guard table (ch. 8) -/

def State.guard (s : State) (g : GuardId) : Option Guard := s.guards[g]
def State.setGuard (g : GuardId) (x : Option Guard) (s : State) : State :=
  { s with guards := s.guards.set g x }

/-- Free the guards that name a window (R144). -/
def keepGuard (h : Handle) : Option Guard → Option Guard
  | none => none
  | some g => if g.window = h then none else some g

/-! ### Freeing a slot (R8) -/

/-- A VIEW's source loses one from its view count when the view is freed (R8, R17). -/
def dropView (w : Window) (s : State) : State :=
  match w.body with
  | .view src =>
    match s.paired? src with
    | none => s
    | some (v, p) => s.setPaired src.index v { p with views := p.views - 1 }
  | .plain _ => s
  | .tracked _ _ => s
  | .paired _ => s

/-- Free the slot a handle matches: the record goes and the instance stays; its marks return, its
guards become FREE, a view's source loses one, and it leaves the drain queue (R8, R52). -/
def freeWindow (h : Handle) (s : State) : State :=
  match s.window? h with
  | none => s
  | some w =>
    let s1 := setFree (s.free + w.marks) (s.setSlot h.index { s.slot h.index with win := none })
    dropView w
      { s1 with
        guards := s1.guards.map (keepGuard h),
        engine := { s1.engine with drainQueue := s1.engine.drainQueue.filter (· ≠ h) } }

/-! ### The fault capture and the command unit -/

/-- Offer a fault record: an empty capture takes it, a full one sets MORE (R171). -/
def offerFault (f : FaultRecord) (s : State) : State :=
  match s.events.capture with
  | none => { s with events := { s.events with capture := some f } }
  | some _ => { s with events := { s.events with more := true } }

/-- The eight result words, those not given written 0 (R167). -/
def resultWords (l : List Word) : Vector Word 8 := Vector.ofFn fun i => l.getD i.val 0

/-- A command completes: its results are written and the status becomes its completion code, in one
event (R167). -/
def complete (st : Status) (res : List Word) (s : State) : State :=
  { s with cmd := { s.cmd with results := resultWords res, status := st, busy := false } }

/-- A command word is accepted (R165). -/
def acceptCommand (code cnt : BitVec 8) (s : State) : State :=
  { s with cmd := { s.cmd with word := (cnt ++ code).setWidth 32, busy := true, status := .busy,
                               code := code, ignored := false } }

/-- A command word written while BUSY is discarded and sets IGNORED (R165). -/
def ignoreCommand (s : State) : State := { s with cmd := { s.cmd with ignored := true } }

/-- A number that runs from 1 to 65535 and goes on at 1 (R68, R94, R111). -/
def bump (n : BitVec 16) : BitVec 16 := if n = 65535 then 1 else n + 1

end Sys2Proof.Machine
end

