-- ==== Sys2Proof/Machine/Operands.lean ====
section
/-! DEFINITION. The operand fields of every command, the code numbers, and the layouts of the result
words (ch. 11). -/

namespace Sys2Proof.Machine

/-! ### Fields -/

/-- Bits `lo + len - 1 : lo` of a word. -/
def field (w : Word) (lo len : Nat) : BitVec len := w.extractLsb' lo len

/-- Bit `lo` of a word. -/
def bitAt (w : Word) (lo : Nat) : Bool := w.getLsbD lo

/-- A number placed with its bit 0 at bit `lo` of a word. -/
def at_ (lo n : Nat) : Word := BitVec.ofNat 32 n <<< lo

/-- A flag placed at bit `lo`. -/
def flagAt (lo : Nat) (b : Bool) : Word := at_ lo b.toNat

/-- Operand word `n` (R165, R166). -/
def opr (s : State) (n : Fin 8) : Word := s.cmd.operands[n]

/-! ### Handles -/

/-- A handle field: index in bits 7:0, instance in bits 15:8.  An index of 32 to 255 names no slot
(R178). -/
def handleOf (f : BitVec 16) : Option Handle :=
  if h : (f.extractLsb' 0 8).toNat < 32 then
    some { index := ⟨(f.extractLsb' 0 8).toNat, h⟩, inst := f.extractLsb' 8 8 }
  else none

/-- A handle as a handle field. -/
def handleField (h : Handle) : Nat := h.index.val + 256 * h.inst.toNat

/-- The handle operand in bits 15:0 of operand word `n`. -/
def oprHandle (s : State) (n : Fin 8) : Option Handle := handleOf (field (opr s n) 0 16)

/-- The window that the handle operand in OPR0 matches (R10, R178). -/
def oprWindow (s : State) : Option (Handle × Window) :=
  match oprHandle s 0 with
  | none => none
  | some h =>
    match s.window? h with
    | none => none
    | some w => some (h, w)

/-- Entry `k` of SEQ and USEQ: two handle fields a word, the lower in bits 15:0 (R178, 11.4). -/
def oprEntry (s : State) (k : Nat) : Option Handle :=
  handleOf (field (s.cmd.operands.toList.getD (k / 2) 0) (16 * (k % 2)) 16)

/-- The first `n` entries, none if one of them has an index above 31. -/
def oprEntries (s : State) (n : Nat) : Option (List Handle) := (List.range n).mapM (oprEntry s)

/-! ### Enumerated fields: 0 and unlisted codes name no value (R178) -/

/-- The kinds OPEN opens; the code of VIEW is not among them (R149). -/
def openKind (c : BitVec 4) : Option Kind :=
  if c = 1 then some .plain else if c = 2 then some .tracked else if c = 3 then some .paired else none

def lineSizeOf (n : Nat) : Option LineSize :=
  if n = 64 then some .b64 else if n = 128 then some .b128 else if n = 256 then some .b256 else none

def modeOf (c : BitVec 2) : Option Mode :=
  if c = 1 then some .single else if c = 2 then some .continuous else if c = 3 then some .stepped
  else none

def signOf (c : BitVec 2) : Option Signedness :=
  if c = 1 then some .unsigned else if c = 2 then some .signed else none

def actionOf (c : BitVec 2) : Option GuardAction :=
  if c = 1 then some .refuse else if c = 2 then some .report else none

def portStateOf (c : BitVec 2) : Option PortState :=
  if c = 1 then some .active else if c = 2 then some .standby else none

/-- GROUP's setting: open or closed. -/
def settingOf (c : BitVec 2) : Option Bool :=
  if c = 1 then some true else if c = 2 then some false else none

/-- A port number of 0 to 3. -/
def portOf (n : BitVec 8) : Option PortId :=
  if h : n.toNat < 4 then some ⟨n.toNat, h⟩ else none

/-- A guard index of 0 to 15. -/
def guardOf (n : BitVec 8) : Option GuardId :=
  if h : n.toNat < 16 then some ⟨n.toNat, h⟩ else none

/-- A group of 0 to 3. -/
def groupOf (n : BitVec 4) : Option (Fin 4) :=
  if h : n.toNat < 4 then some ⟨n.toNat, h⟩ else none

/-- A mask field: bits 4 to 7 name ports other than P0 to P3 (R178). -/
def maskOf (m : BitVec 8) : Option (BitVec 4) :=
  if m.extractLsb' 4 4 = 0 then some (m.extractLsb' 0 4) else none

/-- A multiple of a page. -/
def pageAligned (w : Word) : Bool := w.extractLsb' 0 12 = 0

/-! ### Codes written into result words and read from the register window -/

/-- The status value codes (11.3). -/
def Status.code : Status → Nat
  | .idle => 0x00
  | .busy => 0x01
  | .done => 0x10
  | .accepted => 0x11
  | .noSpace => 0x20
  | .badOperand => 0x21
  | .notFound => 0x22
  | .wrongKind => 0x23
  | .retiring => 0x24
  | .protected_ => 0x25
  | .overlap => 0x26
  | .storeOverlap => 0x27
  | .locked => 0x28
  | .hasViews => 0x29
  | .miss => 0x2A
  | .duplicate => 0x2B
  | .engineBusy => 0x2C
  | .badMode => 0x2D
  | .unknown => 0x2E

def Kind.code : Kind → Nat
  | .plain => 1
  | .tracked => 2
  | .paired => 3
  | .view => 4

def Bank.code : Bank → Nat
  | .a => 0
  | .b => 1

def LineSize.code : LineSize → Nat
  | .b64 => 0
  | .b128 => 1
  | .b256 => 2

/-- ACTIVE 1, DRAINING 2 (11.4). -/
def Window.stateCode (w : Window) : Nat := if w.draining then 2 else 1

def Signedness.code : Signedness → Nat
  | .unsigned => 1
  | .signed => 2

def GuardAction.code : GuardAction → Nat
  | .refuse => 1
  | .report => 2

/-- The response codes (11.5). -/
def Resp.code : Resp → Nat
  | .ok => 0
  | .portOff => 1
  | .miss => 2
  | .denied => 3
  | .retiring => 4
  | .unpublished => 5
  | .locked => 6
  | .lockHeld => 7
  | .lockLost => 8
  | .guard => 9
  | .storeError => 10

/-- The access class codes of the fault capture (11.5); a FETCH is never captured. -/
def classCode : AccessClass → Nat
  | .read => 1
  | .fetch => 2
  | .write => 3
  | .lockRead => 4
  | .releaseWrite => 5

def EngineState.code : EngineState → Nat
  | .idle => 0
  | .run => 1
  | .urgent => 2
  | .drain => 3
  | .held => 4
  | .stopping => 5

def RunStatus.code : Option RunStatus → Nat
  | none => 0
  | some .complete => 1
  | some .partly => 2
  | some .aborted => 3

def DrainOutcome.code : Option DrainOutcome → Nat
  | none => 0
  | some .clean => 1
  | some .flushFailed => 2

def ResetCause.code : ResetCause → Nat
  | .powerOn => 1
  | .pin => 2
  | .restart => 3

/-- A set field: a size, 0x8000 for WHOLE, 0xFFFF for absent (11.4). -/
def setField : Option LineSet → Nat
  | none => 0xFFFF
  | some .whole => 0x8000
  | some (.lines l) => l.length

/-- The group and masks in rights-word positions (11.4). -/
def rightsWord (group : Fin 4) (readMask writeMask : BitVec 4) : Word :=
  at_ 4 group.val ||| at_ 8 readMask.toNat ||| at_ 16 writeMask.toNat

/-- COLLECT's indices: 14-bit values packed without gaps into RES1 to RES7 (11.4). -/
def packIndices : List Nat → BitVec 224
  | [] => 0
  | n :: t => (packIndices t <<< 14) ||| BitVec.ofNat 224 n

def packedWord (l : List Nat) (k : Nat) : Word := (packIndices l).extractLsb' (32 * k) 32

end Sys2Proof.Machine
end

