-- ==== Sys2Proof/Machine/Guards.lean ====
section
/-! DEFINITION. The guard check of a write: the guards taking part, the checked values, and the trips
(ch. 8). -/

namespace Sys2Proof.Machine

/-- The offsets of the words a write changes (R140). -/
def wordsChanged (offset : Nat) : AccessSize → List Nat
  | .one => [offset / 4 * 4]
  | .two => [offset / 4 * 4]
  | .four => [offset / 4 * 4]
  | .eight => [offset / 4 * 4, offset / 4 * 4 + 4]

/-- The guard takes part in the write: it is SET on the hit window with the looked-up instance, its
port mask includes the writing port, and the write changes its word (R140). -/
def takesPart (p : PortId) (a : Access) (g : Guard) : Bool :=
  g.window == a.handle && inMask g.mask p && (wordsChanged a.offset a.size).contains g.offset

/-- What a write keeps of a guard from its grant on (R140, R143). -/
def holdGuard (i : GuardId) (g : Guard) : HeldGuard :=
  { index := i, offset := g.offset, low := g.low, high := g.high, sign := g.sign, action := g.action }

/-- The guard record, if it takes part in the write, as the write holds it. -/
def takenGuard (p : PortId) (a : Access) (s : State) (i : GuardId) : Option HeldGuard :=
  match s.guard i with
  | none => none
  | some g => if takesPart p a g then some (holdGuard i g) else none

/-- The guards taking part in a write, fixed at its grant (R140). -/
def takingPart (p : PortId) (a : Access) (s : State) : List HeldGuard :=
  (List.finRange 16).filterMap (takenGuard p a s)

/-- The checked value of a 4- or 8-byte write: the written word, or the guard's half (R140). -/
def checkedWord (a : Access) (g : HeldGuard) : Word :=
  (a.data >>> (8 * (g.offset - a.offset))).setWidth 32

/-- The checked value of a 1- or 2-byte write: the word's current content with the written bytes in
their places (R140). -/
def mergedWord (a : Access) (current : List Byte) : Word :=
  let k := a.offset % 4
  BitVec.ofNat 32 (bytesToNat
    (current.take k ++ natToBytes a.data.toNat (sizeBytes a.size) ++ current.drop (k + sizeBytes a.size)))

/-- The value is in range: not below low and not above high, as signedness reads them (R141). -/
def HeldGuard.admits (g : HeldGuard) (v : Word) : Bool :=
  match g.sign with
  | .unsigned => g.low.ule v && v.ule g.high
  | .signed => g.low.sle v && v.sle g.high

/-- The guard trips on the value and has the given action (R141, R142). -/
def HeldGuard.trips (act : GuardAction) (c : HeldGuard × Word) : Bool :=
  c.1.action == act && !c.1.admits c.2

/-- A REFUSE guard among them finds its value out of range (R142). -/
def refuses (cs : List (HeldGuard × Word)) : Bool := cs.any (HeldGuard.trips .refuse)

/-- The trip record after a trip: its count rises by one and stays at 255 (R142). -/
def nextTrip (p : PortId) (v : Word) : Option Trip → Trip
  | none => { value := v, port := p, count := 1 }
  | some t => { value := v, port := p, count := if t.count < 255 then t.count + 1 else 255 }

/-- Record a REPORT trip, if the record is still SET with the same window and word offset (R143).  A record freed
and SET again with the same two takes the trip, whatever its action (the model's choice, log 39). -/
def recordTrip (p : PortId) (h : Handle) (s : State) (c : HeldGuard × Word) : State :=
  match s.guard c.1.index with
  | none => s
  | some g =>
    if g.window = h ∧ g.offset = c.1.offset then
      s.setGuard c.1.index (some { g with trip := some (nextTrip p c.2 g.trip) })
    else s

/-- Record every REPORT trip of a write that goes on, and raise GUARD_TRIP once if there is one
(R142). -/
def recordTrips (p : PortId) (h : Handle) (cs : List (HeldGuard × Word)) (s : State) : State :=
  let trips := cs.filter (HeldGuard.trips .report)
  if trips.isEmpty then s else raise .guardTrip (trips.foldl (recordTrip p h) s)

end Sys2Proof.Machine
end

