-- ==== Sys2Proof/Machine/Arbiter.lean ====
section
/-! DEFINITION. The access paths' answers, the lock and guard checks made at a grant, and the arbiter
(ch. 2). -/

namespace Sys2Proof.Machine

/-! ### Answers and faults -/

def State.port (s : State) (p : PortId) : Port := s.ports[p]
def State.setPort (p : PortId) (x : Port) (s : State) : State :=
  { s with ports := s.ports.set p x }

/-- The class reads (R21). -/
def classReads : AccessClass → Bool
  | .read => true
  | .fetch => true
  | .lockRead => true
  | .write => false
  | .releaseWrite => false

/-- A refused or failed read returns zero data; a write returns none (2.4). -/
def zeroData (c : AccessClass) (z : AccessSize) : List Byte :=
  if classReads c then List.replicate (sizeBytes z) 0 else []

/-- A response is a fault unless it is OK, LOCKED or LOCK_HELD, or the access is a FETCH (R36, R37). -/
def isFault (c : AccessClass) (r : Resp) : Bool :=
  c != .fetch && r != .ok && r != .locked && r != .lockHeld

/-- The window index of a fault record: absent for MISS and PORT_OFF (R36). -/
def faultWindow (r : Resp) (i : Option SlotId) : Option SlotId :=
  if r = .miss ∨ r = .portOff then none else i

/-- The fault record and ACCESS_FAULT of a fault response (R36). -/
def accessFault (p : PortId) (c : AccessClass) (a : Word) (r : Resp) (i : Option SlotId) (s : State) :
    State :=
  if isFault c r then
    raise .accessFault (offerFault (.access p c a r (faultWindow r i)) s)
  else s

/-- The response is returned to the requester: the access is no longer in progress (R23). -/
def respond (p : PortId) (r : Resp) (bytes : List Byte) (s : State) : State :=
  s.setPort p { s.port p with access := none, response := some { code := r, bytes := bytes } }

/-- Answer an access that hit a window, with its fault if it is one (R23, R36). -/
def answer (p : PortId) (a : Access) (r : Resp) (bytes : List Byte) (s : State) : State :=
  respond p r bytes (accessFault p a.cls a.addr r (some a.handle.index) s)

/-- Refuse an access: no data, or zero data for a read (2.4). -/
def refuse (p : PortId) (a : Access) (r : Resp) (s : State) : State :=
  answer p a r (zeroData a.cls a.size) s

/-- The store port is given up (R40). -/
def giveUp (s : State) : State := { s with grant := none }

/-! ### The checks at the grant -/

/-- Another port holds the lock on the window (R29). -/
def otherHolds (p : PortId) (h : Handle) (s : State) : Bool :=
  match s.lockHolder h with
  | none => false
  | some q => q != p

/-- The lock checks, in the order of R29: the refusal, or none when check 6 passes.  A slot that has come round
to a VIEW of the looked-up instance is answered as one that no longer holds it, so that no VIEW is locked
(R120; the model's choice, log 37). -/
def lockCheck (p : PortId) (a : Access) (s : State) : Option Resp :=
  match a.cls with
  | .read => none
  | .fetch => none
  | .write => if otherHolds p a.handle s then some .locked else none
  | .lockRead =>
    match s.window? a.handle with
    | none => some .miss
    | some w =>
      if w.kind = .view then some .miss
      else if w.draining then some .retiring
      else if (s.port p).state = .standby then some .portOff
      else if otherHolds p a.handle s then some .locked
      else if (s.lock p).isSome then some .lockHeld
      else none
  | .releaseWrite => if s.holds p a.handle then none else some .lockLost

/-- The store address: in the live region of the record copy, or for a VIEW in the bank that is current
at the grant (R14, R77); absent when a view's source is gone (log 12). -/
def storeAddress (s : State) (a : Access) : Option Nat :=
  match a.record.body with
  | .plain l => some (l.toNat + a.offset)
  | .tracked l _ => some (l.toNat + a.offset)
  | .paired p => some (p.live.toNat + a.offset)
  | .view src =>
    match s.paired? src with
    | none => none
    | some (_, p) => some (p.bankOffset p.current + a.offset)

def setStage (p : PortId) (a : Access) (st : Stage) (s : State) : State :=
  s.setPort p { s.port p with access := some { acc := a, stage := st } }

/-- The store access is in flight at the store controller (R23, R31). -/
def beginStore (p : PortId) (a : Access) (s : State) : State :=
  setStage p a (.storing (storeAddress s a)) s

/-- Act on the guard check of a write: refuse it, or record the trips and go on to the store (R30,
R142); a RELEASE_WRITE refused has its lock restored (R123). -/
def finishCheck (p : PortId) (a : Access) (cs : List (HeldGuard × Word)) (elapsed : Nat) (s : State) :
    State :=
  if refuses cs then
    giveUp (refuse p a .guard (if a.cls = .releaseWrite then restoreLock p a.handle elapsed s else s))
  else beginStore p a (recordTrips p a.handle cs s)

/-- The write is of 1 or 2 bytes: its guard check needs a merging read (R30). -/
def needsMerge : AccessSize → Bool
  | .one => true
  | .two => true
  | .four => false
  | .eight => false

/-- The guard check of a write that has passed check 6 (R30). -/
def guardStage (p : PortId) (a : Access) (s : State) : State :=
  let gs := takingPart p a s
  if gs.isEmpty then beginStore p a s
  else if needsMerge a.size then setStage p a (.merging gs) s
  else finishCheck p a (gs.map fun g => (g, checkedWord a g)) 0 s

/-- The checks and effects of a granted access (R29, R30, R121, R123). -/
def grantAccess (p : PortId) (a : Access) (s : State) : State :=
  match lockCheck p a s with
  | some r => giveUp (refuse p a r s)
  | none =>
    match a.cls with
    | .read => beginStore p a s
    | .fetch => beginStore p a s
    | .lockRead => beginStore p a (takeLock p a.handle s)
    | .write => guardStage p a s
    | .releaseWrite => guardStage p a (beginRelease p s)

/-! ### The arbiter -/

/-- The access waiting at the arbiter for a port. -/
def State.waitingAccess (s : State) (p : PortId) : Option Access :=
  match (s.port p).access with
  | none => none
  | some i =>
    match i.stage with
    | .waiting => some i.acc
    | .merging _ => none
    | .storing _ => none

/-- The publish unit has a store access requested or in flight (R62). -/
def PubUnit.wantsStore : PubUnit → Bool
  | .ready => false
  | .paused _ => false
  | .reading _ _ => true
  | .writing _ _ _ => true
  | .orphanReading _ _ _ => true
  | .orphanWriting _ _ => true

/-- The publish unit's request is waiting. -/
def State.unitWaiting (s : State) : Bool := s.pubUnit.wantsStore && s.grant != some .engine

/-- The engine priority condition (R42). -/
def enginePriority (s : State) : Bool :=
  s.urgency || s.engine.state == .urgent || s.engine.state == .drain

/-- The first waiting port in circular order from the one after the pointer (R41). -/
def nextPort (s : State) : Option PortId :=
  [s.pointer + 1, s.pointer + 2, s.pointer + 3, s.pointer].find? fun p => (s.waitingAccess p).isSome

/-- The contender that a grant decision chooses (R41). -/
def pick (s : State) : Option Holder :=
  if enginePriority s && s.unitWaiting then some .engine
  else
    match nextPort s with
    | some p => some (.port p)
    | none => if s.unitWaiting then some .engine else none

/-- Grant decisions, made again each time a granted access is refused at its grant (R40, R41).  Each
refusal takes one waiting access away, so five suffice. -/
def grantLoop : Nat → State → State
  | 0, s => s
  | n + 1, s =>
    match pick s with
    | none => s
    | some .engine => { s with grant := some .engine }
    | some (.port p) =>
      match s.waitingAccess p with
      | none => s
      | some a =>
        let t := grantAccess p a { s with grant := some (.port p), pointer := p }
        if t.grant = none then grantLoop n t else t

/-- A grant decision, when the grant state is FREE (R40). -/
def arbitrate (s : State) : State := if s.grant = none then grantLoop 5 s else s

end Sys2Proof.Machine
end

