-- ==== Sys2Proof/Machine/Publish.lean ====
section
/-! DEFINITION. The publish unit: starting, copying, pausing, flipping, abandoning and suspending the
publish of one window (ch. 4). -/

namespace Sys2Proof.Machine

/-- What the unit reports to the engine (R62). -/
inductive UnitReport where
  | flipped
  | abandoned (c : AbandonCause)
  | suspended
  | paused
  deriving DecidableEq, Repr

/-- The lowest index of a list at or above a position. -/
def lowestFrom (pos : Nat) (l : List Nat) : Option Nat := (l.filter fun n => pos ≤ n).min?

/-- The lowest line of the copy set W ∪ C at or above the copy position (R63). -/
def nextCopyLine (w : Window) (p : Paired) : Option Nat :=
  match p.work with
  | none => none
  | some k =>
    match k.set, p.carry with
    | .lines x, .lines y => lowestFrom k.pos (x ++ y)
    | .lines _, .whole => if k.pos < w.lineCount then some k.pos else none
    | .whole, _ => if k.pos < w.lineCount then some k.pos else none

/-- The store offset of a line in the live region (R61, R64). -/
def liveLine (w : Window) (p : Paired) (n : Nat) : Nat := p.live.toNat + n * w.lineSize.bytes

/-- The store offset of a line in a bank (R61, R64). -/
def bankLine (w : Window) (p : Paired) (bank : Bank) (n : Nat) : Nat :=
  p.bankOffset bank + n * w.lineSize.bytes

def unitReady (s : State) : State := { s with pubUnit := .ready }

/-- A window's PAIRED fields after a flip into the bank fixed as idle (R68, R51). -/
def Paired.flipTo (p : Paired) (idle : Bank) (k : Working) : Paired :=
  { p with current := idle, gen := bump p.gen, carry := k.set, work := none }

/-- The flip: banks exchange, the generation rises, W moves into C, the unit is READY (R68). -/
def flip (r : PublishRecord) (s : State) : State :=
  match s.paired? r.handle with
  | none => unitReady s
  | some (w, p) =>
    match p.work with
    | none => unitReady s
    | some k =>
      unitReady (setFree (s.free + p.carry.marks) (s.setPaired r.handle.index w (p.flipTo r.idle k)))

/-- The publish record a start writes (R62, R63). -/
def newRecord (h : Handle) (p : Paired) : PublishRecord :=
  { handle := h, idle := p.current.other, abandons := [], suspend := false }

/-- Copy the next line, or flip when none is left (R65 steps 4 and 5); the flag says that it flipped. -/
def advance (r : PublishRecord) (s : State) : State × Bool :=
  match s.paired? r.handle with
  | none => (unitReady s, true)
  | some (w, p) =>
    match nextCopyLine w p with
    | some n => ({ s with pubUnit := .reading r n }, false)
    | none => (flip r s, true)

/-- Take the start of a window (R63); the flag says that it flipped at once. -/
def startUnit (h : Handle) (s : State) : State × Bool :=
  match s.paired? h with
  | none => (unitReady s, true)
  | some (w, p) => advance (newRecord h p) (s.setPaired h.index w p.take)

/-- Take a held start: PAUSED in place of READING (R63, R114). -/
def startHeld (h : Handle) (s : State) : State :=
  match s.paired? h with
  | none => unitReady s
  | some (w, p) => { s.setPaired h.index w p.take with pubUnit := .paused (newRecord h p) }

/-- An abandon of the publish in READING or WRITING: its cause is kept for the next line boundary
(R62, R66).  A boundary that is taken before it leaves it for the next one (log 35). -/
def requestAbandon (c : AbandonCause) (s : State) : State :=
  match s.pubUnit with
  | .reading r n => { s with pubUnit := .reading { r with abandons := r.abandons ++ [c] } n }
  | .writing r n bs => { s with pubUnit := .writing { r with abandons := r.abandons ++ [c] } n bs }
  | .ready => s
  | .paused _ => s
  | .orphanReading _ _ _ => s
  | .orphanWriting _ _ => s

/-- A suspend of the publish in READING or WRITING (R66, R110).  A boundary that is taken before it leaves
it for the next one (log 35). -/
def requestSuspend (s : State) : State :=
  match s.pubUnit with
  | .reading r n => { s with pubUnit := .reading { r with suspend := true } n }
  | .writing r n bs => { s with pubUnit := .writing { r with suspend := true } n bs }
  | .ready => s
  | .paused _ => s
  | .orphanReading _ _ _ => s
  | .orphanWriting _ _ => s

/-- The window of the publish at the unit. -/
def PubUnit.handle? : PubUnit → Option Handle
  | .ready => none
  | .reading r _ => some r.handle
  | .writing r _ _ => some r.handle
  | .paused r => some r.handle
  | .orphanReading _ _ _ => none
  | .orphanWriting _ _ => none

/-- The unit's end of a publish without a flip: W is merged into D and the unit is READY (R72). -/
def abandonPublish (h : Handle) (s : State) : State := unitReady (mergeWork h s)

/-- A waiting RETIRE frees the window at the boundary, breaks a lock taken meanwhile, and completes
(R8, R124, R156). -/
def retireAtBoundary (h : Handle) (s : State) : State :=
  complete .done [] (freeWindow h (breakWindowLock h (unitReady s)))

/-- The first action of R65 whose condition holds, for the requests in `seen`, with the unit's report, none
when the next line copy begins; the publish goes on with the record `r`. -/
def boundaryAction (seen r : PublishRecord) (s : State) : State × Option UnitReport :=
  match seen.abandons with
  | c :: cs =>
    if AbandonCause.retired ∈ c :: cs then
      (retireAtBoundary r.handle s, some (.abandoned .retired))
    else (abandonPublish r.handle s, some (.abandoned c))
  | [] =>
    if seen.suspend then (unitReady s, some .suspended)
    else if s.isLocked r.handle then ({ s with pubUnit := .paused r }, some .paused)
    else
      match advance r s with
      | (t, true) => (t, some .flipped)
      | (t, false) => (t, none)

/-- The requests that a boundary acts on when it is taken before those that come together with it: the ones
that have waited for it (R66).  A suspend among them leaves W to an abandon that comes with the boundary,
which merges it at once (R66, R75), so that the publish ends as abandoned. -/
def PublishRecord.older (r : PublishRecord) : PublishRecord :=
  { r with
    abandons := r.abandons.take r.waited ++
      (if r.suspend && r.suspendWaited then (r.abandons.drop r.waited).filter (· != .retired) else []),
    suspend := r.suspend && r.suspendWaited }

/-- The requests wait for the boundary of the next line copy (R66). -/
def PublishRecord.wait (r : PublishRecord) : PublishRecord :=
  { r with waited := r.abandons.length, suspendWaited := r.suspend }

/-- A freeing that comes after the boundary that ended the publish finds the unit READY, and frees the
window at once (R156); every other request finds no publish and has no effect (R66). -/
def freeAfter (r : PublishRecord) (x : State × Option UnitReport) : State × Option UnitReport :=
  if x.2.isSome ∧ AbandonCause.retired ∈ r.abandons ∧ AbandonCause.retired ∉ r.older.abandons then
    (retireAtBoundary r.handle x.1, x.2)
  else x

/-- The line boundary after a line copy without an error (R65).  `early`: it is taken before the requests
that come together with it (R66).  On a locked window it would then pause the publish, and the requests
would be carried out at once: what taking them first does. -/
def boundary (early : Bool) (r : PublishRecord) (s : State) : State × Option UnitReport :=
  if early = true ∧ s.isLocked r.handle = false then freeAfter r (boundaryAction r.older r.wait s)
  else boundaryAction r r s

/-- The line boundary after a line copy that ended in a store error: PUBLISH_FAULT and the fault record,
then the abandon, or the freeing that was pending (R74). -/
def failedBoundary (r : PublishRecord) (addr : Nat) (write : Bool) (s : State) :
    State × Option UnitReport :=
  let t := raise .publishFault
    (offerFault (.lineCopy (BitVec.ofNat 32 addr) write r.handle.index) s)
  if AbandonCause.retired ∈ r.abandons then
    (retireAtBoundary r.handle t, some (.abandoned .storeError))
  else (abandonPublish r.handle t, some (.abandoned .storeError))

/-- The copy position after a line copy of line `n` (R64). -/
def setCopyPosition (h : Handle) (n : Nat) (s : State) : State :=
  match s.paired? h with
  | none => s
  | some (w, p) =>
    match p.work with
    | none => s
    | some k => s.setPaired h.index w { p with work := some { k with pos := n } }

end Sys2Proof.Machine
end

