-- ==== Sys2Proof/Machine/Engine.lean ====
section
/-! DEFINITION. The publish engine: passes, urgent runs, drains, the suspended context, the window
boundary choice, triggers and the end of STOPPING (ch. 5 and 6). -/

namespace Sys2Proof.Machine

/-- Change what the engine holds. -/
def modEngine (f : Engine → Engine) (s : State) : State := { s with engine := f s.engine }

/-! ### Counts and reports -/

/-- A fresh working report (R94, R111). -/
def freshWork (n : BitVec 16) : WorkReport :=
  { number := n, published := 0, skipped := 0, vacant := 0, copied := false }

/-- The report of a pass or run that ends (R99). -/
def WorkReport.ended (w : WorkReport) (st : RunStatus) : RunReport :=
  { number := w.number, status := some st, published := w.published, skipped := w.skipped,
    vacant := w.vacant }

/-- COMPLETE if the skipped mask is empty, PARTIAL otherwise (R99). -/
def WorkReport.endStatus (w : WorkReport) : RunStatus :=
  if w.skipped = 0 then .complete else .partly

def WorkReport.skip (i : SlotId) (w : WorkReport) : WorkReport :=
  { w with skipped := w.skipped ||| BitVec.twoPow 32 i.val }

def WorkReport.publish (w : WorkReport) : WorkReport := { w with published := w.published + 1 }

def WorkReport.vacate (w : WorkReport) : WorkReport := { w with vacant := w.vacant + 1 }

/-- A report's effect on the counts of the pass or run (R98, R111). -/
def WorkReport.count (i : SlotId) (rep : UnitReport) (w : WorkReport) : WorkReport :=
  match rep with
  | .flipped => w.publish
  | .abandoned .storeError => w.skip i
  | .abandoned .retired => w.skip i
  | .abandoned .seq => w
  | .abandoned .useq => w
  | .abandoned .stop => w
  | .suspended => w
  | .paused => w

/-- Change the working report of the pass. -/
def modWork (f : WorkReport → WorkReport) : State → State :=
  modEngine fun e => { e with working := e.working.map f }

/-- Change the working report of the urgent run. -/
def modUrgent (f : WorkReport → WorkReport) : State → State :=
  modEngine fun e => { e with urgentRun := e.urgentRun.map fun u => { u with work := f u.work } }

/-- A pass ends: its report is written and PASS_DONE raised (R99). -/
def writePass (st : RunStatus) (s : State) : State :=
  match s.engine.working with
  | none => s
  | some w =>
    raise .passDone (modEngine (fun e => { e with passReport := w.ended st, working := none }) s)

/-- An urgent run ends: its report is written and URGENT_DONE raised (R111). -/
def writeUrgent (st : RunStatus) (s : State) : State :=
  match s.engine.urgentRun with
  | none => s
  | some u =>
    raise .urgentDone
      (modEngine (fun e => { e with urgentReport := u.work.ended st, urgentRun := none }) s)

/-! ### Passes and regular runs -/

/-- The urgent trigger that auto-urgent gives at a pass's end, judged by R108 without the auto-urgent
row (R109). -/
def autoUrgentTrigger (s : State) : State :=
  if s.engine.state = .stopping ∨ s.engine.urgentRequested = true ∨ s.engine.urgentRun.isSome = true then
    raise .triggerLost s
  else modEngine (fun e => { e with urgentRequested := true }) s

/-- The run is over after a completed pass (R94 to R96): always in SINGLE and STEPPED, and in CONTINUOUS
when the sequence is empty or the pass made no line copy. -/
def runEnds (e : Engine) (w : WorkReport) : Bool :=
  match e.config.mode with
  | .single => true
  | .continuous => e.regularSeq.isEmpty || !w.copied
  | .stepped => true

/-- The engine when a pass has completed: the run ends or its next pass is due, and a STEPPED pass takes
the cursor back to 0 (R94 to R96). -/
def Engine.afterPass (e : Engine) (w : WorkReport) : Engine :=
  { e with
    run := if runEnds e w then none else e.run,
    cursor := if e.config.mode = .stepped then 0 else e.cursor }

/-- A pass completes, COMPLETE or PARTIAL (R99). -/
def finishPass (s : State) : State :=
  match s.engine.working with
  | none => s
  | some w =>
    let t := modEngine (fun e => e.afterPass w) (writePass w.endStatus s)
    if t.engine.config.autoUrgent then autoUrgentTrigger t else t

/-- A pass begins (R94). -/
def Engine.beginPass (e : Engine) : Engine :=
  { e with
    passCounter := bump e.passCounter,
    working := some (freshWork (bump e.passCounter)),
    run := some { pos := 0, remaining := none } }

/-- A pass begins, and over an empty sequence ends at its beginning (R94). -/
def beginPass (s : State) : State :=
  let t := modEngine Engine.beginPass s
  if t.engine.regularSeq.isEmpty then finishPass t else t

/-- A STEPPED sub-run ends: STEP_DONE, and the pass with it when the cursor has reached the end (R96). -/
def endSubRun (s : State) : State :=
  let t := raise .stepDone (modEngine (fun e => { e with run := none }) s)
  if t.engine.regularSeq.length ≤ t.engine.cursor then finishPass t else t

/-- A STEPPED sub-run begins at the cursor (R96). -/
def beginSubRun (s : State) : State :=
  let t := if s.engine.cursor = 0 then modEngine Engine.beginPass s else s
  let n := min t.engine.config.step (t.engine.regularSeq.length - t.engine.cursor)
  let u := modEngine (fun e => { e with run := some { pos := e.cursor, remaining := some n } }) t
  if n = 0 then endSubRun u else u

/-- A regular run begins (R94). -/
def beginRun (s : State) : State :=
  match s.engine.config.mode with
  | .single => beginPass s
  | .continuous => beginPass s
  | .stepped => beginSubRun s

/-- The pass position after an entry ends, and in STEPPED the cursor and the remaining count (R96,
R97). -/
def Engine.nextEntry (e : Engine) (r : RegularRun) : Engine :=
  { e with
    run := some { pos := r.pos + 1, remaining := r.remaining.map (· - 1) },
    cursor := if e.config.mode = .stepped then e.cursor + 1 else e.cursor }

/-- A regular entry ends (R96, R97); the pass ends with its last entry (R99; log 13). -/
def entryEnds (s : State) : State :=
  match s.engine.run with
  | none => s
  | some r =>
    let t := modEngine (fun e => e.nextEntry r) s
    if t.engine.config.mode = .stepped then
      (if r.remaining.getD 0 ≤ 1 then endSubRun t else t)
    else if t.engine.regularSeq.length ≤ r.pos + 1 then finishPass t
    else t

/-- SEQ's effect on a pass in progress, at the time R87 gives: it ends ABORTED, and a new pass begins at
entry 0, except in STEPPED. -/
def restartPass (s : State) : State :=
  let t := modEngine (fun e => { e with restartPass := false }) (writePass .aborted s)
  if t.engine.config.mode = .stepped then modEngine (fun e => { e with run := none, cursor := 0 }) t
  else beginPass t

/-! ### Urgent runs -/

/-- An urgent run begins, and over an empty list ends at its beginning (R111). -/
def beginUrgent (s : State) : State :=
  let t := modEngine (fun e =>
    { e with
      urgentRequested := false,
      urgentCounter := bump e.urgentCounter,
      urgentRun := some { pos := 0, work := freshWork (bump e.urgentCounter) } }) s
  if t.engine.urgentList.isEmpty then writeUrgent .complete t else t

/-- An urgent entry ends; the run ends with its last entry (R111). -/
def urgentEntryEnds (s : State) : State :=
  match s.engine.urgentRun with
  | none => s
  | some u =>
    let t := modEngine (fun e => { e with urgentRun := some { u with pos := u.pos + 1 } }) s
    if t.engine.urgentList.length ≤ u.pos + 1 then writeUrgent u.work.endStatus t else t

/-! ### The suspended context -/

/-- A publish of the context's window adopts it while it is WAITING (R113). -/
def Engine.adopt (e : Engine) (h : Handle) : Engine :=
  match e.context with
  | none => e
  | some c =>
    if c.handle = h ∧ c.outcome = .waiting then { e with context := some { c with outcome := .adopted } }
    else e

/-- The context is ADOPTED. -/
def Engine.adopted (e : Engine) : Bool :=
  match e.context with
  | none => false
  | some c => c.outcome == .adopted

/-- What the adopter's report makes of an ADOPTED context (R113). -/
def CtxOutcome.after (rep : UnitReport) (o : CtxOutcome) : CtxOutcome :=
  match rep with
  | .flipped => .published
  | .abandoned .storeError => .lost
  | .abandoned .retired => .lost
  | .abandoned .useq => .lost
  | .abandoned .seq => .lost
  | .abandoned .stop => o
  | .suspended => o
  | .paused => o

/-- The adopter's report changes the outcome (R113). -/
def Engine.resolve (e : Engine) (rep : UnitReport) : Engine :=
  match e.context with
  | none => e
  | some c =>
    if c.outcome = .adopted then { e with context := some { c with outcome := c.outcome.after rep } }
    else e

/-- The context becomes absent. -/
def dropContext : State → State := modEngine fun e => { e with context := none }

/-- The context is counted in its pass, published or skipped, and its regular entry ends (R107, R114). -/
def countContext (c : SuspendedCtx) (published : Bool) (s : State) : State :=
  entryEnds (dropContext
    (modWork (if published then WorkReport.publish else WorkReport.skip c.handle.index) s))

/-- USEQ's effect on an urgent run in progress, at the time R107 gives: it ends ABORTED, a context that
its publish had adopted is counted, and a new run begins. -/
def restartUrgent (adopted : Bool) (s : State) : State :=
  let t := modEngine (fun e => { e with restartUrgent := false }) (writeUrgent .aborted s)
  beginUrgent
    (match t.engine.context with
     | none => t
     | some c => if adopted then countContext c (c.outcome == .published) t else t)

/-! ### Drains -/

/-- A drain frees its window, with its outcome in the retire report (R118). -/
def drainFree (o : DrainOutcome) (h : Handle) (s : State) : State :=
  let t := freeWindow h s
  raise .windowFreed
    { t with events := { t.events with
        retireReport := { index := h.index, inst := h.inst, outcome := some o } } }

/-- A drain failure, counted for a window still at the head of the drain queue (R117, R159). -/
def drainFailure (h : Handle) (s : State) : State :=
  match s.engine.drainQueue with
  | [] => s
  | q :: qs =>
    if q = h then
      match s.paired? h with
      | none => s
      | some (w, p) =>
        if 1 ≤ p.drain.getD 0 then drainFree .flushFailed h s
        else modEngine (fun e => { e with drainQueue := qs ++ [h] })
          (s.setPaired h.index w { p with drain := some (p.drain.getD 0 + 1) })
    else s

/-! ### The unit's reports -/

/-- What a report counts, whether or not STOP has been taken (R98, R102, R111, R117). -/
def account (pu : Purpose) (h : Handle) (rep : UnitReport) (s : State) : State :=
  match pu with
  | .regular => modWork (WorkReport.count h.index rep) s
  | .urgent => modUrgent (WorkReport.count h.index rep) s
  | .drain => if rep = .abandoned .storeError then drainFailure h s else s

/-- The suspended context that a SUSPENDED report makes (R110). -/
def suspendContext (h : Handle) (s : State) : State :=
  modEngine (fun e =>
    { e with context := some { handle := h, pos := (e.run.map RegularRun.pos).getD 0,
                               outcome := .waiting } }) s

/-- What a report ends, with no STOP taken (R87, R98, R107, R110, R111, R113, R116). -/
def conclude (pu : Purpose) (h : Handle) (rep : UnitReport) (s : State) : State :=
  match pu with
  | .regular =>
    if rep = .suspended then suspendContext h s
    else if s.engine.restartPass then restartPass s
    else entryEnds s
  | .urgent =>
    let t := modEngine (fun e => e.resolve rep) s
    if t.engine.restartUrgent then restartUrgent s.engine.adopted t else urgentEntryEnds t
  | .drain => modEngine (fun e => e.resolve rep) s

/-! ### The window boundary choice -/

/-- Request a start of a window with a purpose, entering the state of that purpose (R97, R111, R113,
R116); the flag asks for the choice again, when the window flipped at once. -/
def startPublish (pu : Purpose) (st : EngineState) (h : Handle) (s : State) : State × Bool :=
  match startUnit h (modEngine (fun e => { e with state := st, heldFrom := none, purpose := some pu }) s) with
  | (t, false) => (t, false)
  | (t, true) =>
    (conclude pu h .flipped (account pu h .flipped (modEngine (fun e => { e with purpose := none }) t)), true)

/-- Process a regular entry (R97). -/
def processRegular (h : Handle) (s : State) : State × Bool :=
  match s.paired? h with
  | none => (entryEnds (modWork WorkReport.vacate s), true)
  | some _ =>
    if s.isLocked h then (entryEnds (modWork (WorkReport.skip h.index) s), true)
    else startPublish .regular .run h s

/-- Process an urgent entry (R111), which may adopt the suspended context (R113). -/
def processUrgent (h : Handle) (s : State) : State × Bool :=
  match s.paired? h with
  | none => (urgentEntryEnds (modUrgent WorkReport.vacate s), true)
  | some _ =>
    if s.isLocked h then (urgentEntryEnds (modUrgent (WorkReport.skip h.index) s), true)
    else startPublish .urgent .urgent h (modEngine (fun e => e.adopt h) s)

/-- Nothing of the window is left unpublished: no W, and D an empty list (R116). -/
def Paired.drained (p : Paired) : Bool := p.work == none && p.dirty == .lines []

/-- Take up the head of the drain queue: free it CLEAN, or publish it (R116). -/
def drainStep (h : Handle) (s : State) : State × Bool :=
  match s.paired? h with
  | none => (modEngine (fun e => { e with drainQueue := e.drainQueue.tail }) s, true)
  | some (_, p) =>
    if p.drained then (drainFree .clean h s, true)
    else startPublish .drain .drain h (modEngine (fun e => e.adopt h) s)

/-- A held start of the context's window: HELD, held-from RUN (R114). -/
def resumeHeld (c : SuspendedCtx) (s : State) : State :=
  startHeld c.handle (modEngine (fun e =>
    { e with context := none, state := .held, heldFrom := some .run, purpose := some .regular }) s)

/-- Resume the suspended context (R114). -/
def resumeContext (c : SuspendedCtx) (s : State) : State × Bool :=
  match c.outcome with
  | .published => (countContext c true s, true)
  | .lost => (countContext c false s, true)
  | .adopted => (s, false)
  | .waiting =>
    match s.paired? c.handle with
    | none => (countContext c false s, true)
    | some _ =>
      if s.isLocked c.handle then (resumeHeld c s, false)
      else startPublish .regular .run c.handle (dropContext s)

/-- The engine has nothing to do: it enters IDLE, and raises ENGINE_IDLE if it was not IDLE (R85). -/
def settleIdle (s : State) : State :=
  if s.engine.state = .idle then s
  else raise .engineIdle (modEngine (fun e => { e with state := .idle, heldFrom := none }) s)

/-- One window boundary choice (R100); the flag asks for it again in the same event. -/
def choiceStep (s : State) : State × Bool :=
  match s.engine.urgentRun with
  | some u =>
    match s.engine.urgentList[u.pos]? with
    | none => (writeUrgent u.work.endStatus s, true)
    | some h => processUrgent h s
  | none =>
    if s.engine.urgentRequested then (beginUrgent s, true)
    else
      match s.engine.drainQueue with
      | h :: _ => drainStep h s
      | [] =>
        match s.engine.context with
        | some c => resumeContext c s
        | none =>
          match s.engine.run with
          | some r =>
            match s.engine.working with
            | none => (beginPass s, true)
            | some _ =>
              match s.engine.regularSeq[r.pos]? with
              | none => (finishPass s, true)
              | some h => processRegular h s
          | none =>
            if s.engine.regularPending then
              (beginRun (modEngine (fun e => { e with regularPending := false }) s), true)
            else (settleIdle s, false)

/-- The choice, made again while it is asked for (R100).  The bound is far above what one event can ask
for (log 25). -/
def choiceLoop : Nat → State → State
  | 0, s => s
  | n + 1, s =>
    match choiceStep s with
    | (t, true) => choiceLoop n t
    | (t, false) => t

/-- The window boundary choice, made when the unit is READY (R63, R100; log 15). -/
def boundaryChoice (s : State) : State := if s.pubUnit = .ready then choiceLoop 512 s else s

/-! ### The end of STOPPING -/

/-- The suspended context at STOP and SEQ: a WAITING one has its W merged into D, and every one becomes
absent (R87, R103, R112). -/
def abandonContext (s : State) : State :=
  match s.engine.context with
  | none => s
  | some c => dropContext (if c.outcome = .waiting then mergeWork c.handle s else s)

/-- A regular pass in progress at STOP ends ABORTED; a STEPPED pass between sub-runs does not, and keeps
its cursor (R103 steps 3 and 5). -/
def stopPass (s : State) : State :=
  if s.engine.run.isSome ∧ s.engine.working.isSome then
    modEngine (fun e => { e with run := none, cursor := 0 }) (writePass .aborted s)
  else modEngine (fun e => { e with run := none }) s

/-- The engine enters IDLE and STOP completes (R103 step 7). -/
def stopIdle (s : State) : State :=
  complete .done []
    (raise .engineIdle
      (modEngine (fun e =>
        { e with
          state := .idle, heldFrom := none, purpose := none, regularPending := false,
          urgentRequested := false, restartPass := false, restartUrgent := false }) s))

/-- The end of STOPPING, or of STOP in HELD (R103, R112). -/
def stopEnd (s : State) : State :=
  boundaryChoice (stopIdle (writeUrgent .aborted (stopPass (abandonContext s))))

/-- The engine takes the end of a publish from the unit (R85, R98, R103, R111). -/
def takeReport (h : Handle) (rep : UnitReport) (s : State) : State :=
  match s.engine.purpose with
  | none => s
  | some pu =>
    let t := account pu h rep (modEngine (fun e => { e with purpose := none, heldFrom := none }) s)
    if t.engine.state = .stopping then stopEnd t else boundaryChoice (conclude pu h rep t)

/-- The engine takes the report of entry into PAUSED: HELD, with the state it left (R130). -/
def enterHeld (s : State) : State :=
  modEngine (fun e =>
    { e with state := .held, heldFrom := some (if e.state = .urgent then .urgent else .run) }) s

/-- The engine takes whatever the unit reports. -/
def takeReport? (h : Handle) (rep : Option UnitReport) (s : State) : State :=
  match rep with
  | none => s
  | some .paused => enterHeld s
  | some r => takeReport h r s

/-! ### Triggers -/

/-- What became of a trigger. -/
inductive TriggerOutcome where
  | begun | pended | dropped
  deriving DecidableEq, Repr

/-- A regular trigger is dropped: STOPPING, a regular run in progress, or regular pending set (R92). -/
def regularDropped (e : Engine) : Bool :=
  e.state == .stopping || e.run.isSome || e.regularPending

/-- Judge a regular trigger (R92). -/
def regularTrigger (s : State) : State × TriggerOutcome :=
  if regularDropped s.engine then (raise .triggerLost s, .dropped)
  else if s.engine.state = .idle then (boundaryChoice (beginRun s), .begun)
  else (modEngine (fun e => { e with regularPending := true }) s, .pended)

/-- An urgent trigger from URGENT or TRIG_U is dropped (R108). -/
def urgentDropped (e : Engine) : Bool :=
  e.state == .stopping || e.config.autoUrgent || e.urgentRequested || e.urgentRun.isSome

/-- The suspension at once of a held regular publish (R110). -/
def suspendHeld (s : State) : State :=
  match s.pubUnit with
  | .paused r => takeReport r.handle .suspended (unitReady s)
  | .ready => s
  | .reading _ _ => s
  | .writing _ _ _ => s
  | .orphanReading _ _ _ => s
  | .orphanWriting _ _ => s

/-- Judge an urgent trigger from URGENT or TRIG_U (R108, R110). -/
def urgentTrigger (s : State) : State × TriggerOutcome :=
  if urgentDropped s.engine then (raise .triggerLost s, .dropped)
  else
    let t := modEngine (fun e => { e with urgentRequested := true }) s
    match s.engine.state with
    | .idle => (boundaryChoice t, .begun)
    | .run => (requestSuspend t, .pended)
    | .held => (suspendHeld t, .begun)
    | .drain => (t, .pended)
    | .urgent => (t, .pended)
    | .stopping => (t, .pended)

/-- The abandon at once of a held publish (R66, R87, R107). -/
def abandonHeld (c : AbandonCause) (s : State) : State :=
  match s.pubUnit with
  | .paused r => takeReport r.handle (.abandoned c) (abandonPublish r.handle s)
  | .ready => s
  | .reading _ _ => s
  | .writing _ _ _ => s
  | .orphanReading _ _ _ => s
  | .orphanWriting _ _ => s

end Sys2Proof.Machine
end

