-- ==== Sys2Proof/Machine/Command.lean ====
section
/-! DEFINITION. How a command word is taken: not answered in reset, discarded while BUSY, accepted while
IDLE (R165, R176). -/

namespace Sys2Proof.Machine

/-- The outcome of a step of this part. -/
abbrev Result := Host.Outcome State Fault Refusal

/-- While the part is held in reset it answers no access and records no edge (R176). -/
def whenRunning (f : State → Result) (s : State) : Result :=
  if s.inReset.isSome then .next s else f s

/-- A command word of this code is written: while BUSY it is discarded and sets IGNORED, while IDLE it is
accepted and carried out (R165). -/
def takeCommand (code cnt : BitVec 8) (body : State → State) : State → Result :=
  whenRunning fun s =>
    if s.cmd.busy then .next (ignoreCommand s) else .next (body (acceptCommand code cnt s))

/-- A command completes with a refusal: it changes no state and leaves its result words 0 (R146,
R167). -/
def refuseCommand (st : Status) (s : State) : State := complete st [] s

end Sys2Proof.Machine
end

