-- ==== Sys2Proof/Machine/Windows.lean ====
section
/-! DEFINITION. The window commands OPEN, VIEW, MODIFY, RETIRE, QUERY, LOOKUP and GROUP (ch. 9), and
COLLECT (ch. 3). -/

namespace Sys2Proof.Machine

/-! ### Overlaps -/

/-- Two runs of bytes share a byte. -/
def sharesByte (a n b m : Nat) : Bool := decide (a < b + m) && decide (b < a + n)

/-- The store offsets of a window's own regions (R3, R16). -/
def Window.regions (w : Window) : List Nat :=
  match w.body with
  | .plain l => [l.toNat]
  | .tracked l _ => [l.toNat]
  | .paired p => [p.live.toNat, p.bankA.toNat, p.bankB.toNat]
  | .view _ => []

/-- The windows of the filled slots. -/
def State.windows (s : State) : List Window := s.slots.toList.filterMap Slot.win

/-- The window's requester range shares a byte with that of a filled slot (R15). -/
def rangeOverlaps (w : Window) (s : State) : Bool :=
  s.windows.any fun v => sharesByte w.base.toNat w.size v.base.toNat v.size

/-- A region of the one shares a byte with a region of the other (R16). -/
def regionsMeet (w v : Window) : Bool :=
  w.regions.any fun a => v.regions.any fun b => sharesByte a w.size b v.size

/-- The regions of one list of offsets, each of `n` bytes, share no byte with each other. -/
def regionsDisjoint (n : Nat) : List Nat → Bool
  | [] => true
  | a :: t => t.all (fun b => !sharesByte a n b n) && regionsDisjoint n t

/-- A store region fails one of the three tests of R16. -/
def storeConflict (w : Window) (s : State) : Bool :=
  w.regions.any (fun a => !s.inStore a w.size) || !regionsDisjoint w.size w.regions ||
    s.windows.any (regionsMeet w)

/-! ### Filling a slot -/

/-- Fill a slot: its instance rises by one and the record is complete, in one event (R6). -/
def fillSlot (i : SlotId) (w : Window) (s : State) : State :=
  s.setSlot i { inst := (s.slot i).inst + 1, win := some w }

/-- The handle of a slot as it stands. -/
def State.handleAt (s : State) (i : SlotId) : Handle := { index := i, inst := (s.slot i).inst }

/-- Fill a slot and complete with DONE and the new handle (R6, R150, R152). -/
def fillAndComplete (i : SlotId) (w : Window) (s : State) : State :=
  let t := fillSlot i w s
  complete .done [at_ 0 (handleField (t.handleAt i))] t

/-! ### OPEN -/

/-- The initial fields of each kind that OPEN opens (R7); the bank offsets are read only for PAIRED
(R149). -/
def openBody (k : Kind) (live bankA bankB : Word) : Option Body :=
  if !pageAligned live then none
  else
    match k with
    | .plain => some (.plain live)
    | .tracked => some (.tracked live (.lines []))
    | .paired =>
      if pageAligned bankA && pageAligned bankB then
        some (.paired
          { live := live, bankA := bankA, bankB := bankB, current := .a, gen := 0, dirty := .whole,
            work := none, carry := .whole, views := 0, drain := none })
      else none
    | .view => none

/-- Base and page count are within bounds, and the range ends at or below 0xFFFFFFFF (R149). -/
def rangeAllowed (base : Word) (pages : Nat) : Bool :=
  pageAligned base && decide (1 ≤ pages) && decide (pages ≤ 256) &&
    decide (base.toNat + pages * Config.pageBytes ≤ Config.addressLimit)

/-- The window that OPEN's operands describe, none when one of them fails R149. -/
def openOperands (s : State) : Option Window := do
  let kind ← openKind (field (opr s 1) 0 4)
  let size ← lineSizeOf (field (opr s 3) 16 9).toNat
  let readMask ← maskOf (field (opr s 1) 8 8)
  let writeMask ← maskOf (field (opr s 1) 16 8)
  let group ← groupOf (field (opr s 1) 4 4)
  let body ← openBody kind (opr s 4) (opr s 5) (opr s 6)
  let pages := (field (opr s 3) 0 9).toNat
  if rangeAllowed (opr s 2) pages then
    some { base := opr s 2, pages := pages, lineSize := size, readMask := readMask,
           writeMask := writeMask, group := group, body := body }
  else none

/-- OPEN: its checks in the order of R150, then the filling of R6. -/
def openCommand (s : State) : State :=
  match s.freeSlot? with
  | none => refuseCommand .noSpace s
  | some i =>
    match openOperands s with
    | none => refuseCommand .badOperand s
    | some w =>
      if !s.groups.isOpen w.group then refuseCommand .protected_ s
      else if rangeOverlaps w s then refuseCommand .overlap s
      else if storeConflict w s then refuseCommand .storeOverlap s
      else fillAndComplete i w s

def execOpen (cnt : BitVec 8) (s : State) : Result := takeCommand codeOpen cnt openCommand s

/-! ### VIEW -/

/-- VIEW's operands before its source checks (R151 check 2): read mask and group; the write mask is
empty. -/
def viewOperands (s : State) : Option (BitVec 4 × Fin 4) := do
  let readMask ← maskOf (field (opr s 1) 8 8)
  let group ← groupOf (field (opr s 1) 4 4)
  if pageAligned (opr s 2) && field (opr s 1) 16 8 == 0 then some (readMask, group) else none

/-- The view's record: pages and line size of the source, an empty write mask (R7, R152). -/
def viewWindow (base : Word) (readMask : BitVec 4) (group : Fin 4) (h : Handle) (w : Window) : Window :=
  { base := base, pages := w.pages, lineSize := w.lineSize, readMask := readMask, writeMask := 0,
    group := group, body := .view h }

/-- VIEW: its checks in the order of R151, then the filling, with the source's view count (R152). -/
def viewCommand (s : State) : State :=
  match s.freeSlot? with
  | none => refuseCommand .noSpace s
  | some i =>
    match viewOperands s with
    | none => refuseCommand .badOperand s
    | some (readMask, group) =>
      match oprWindow s with
      | none => refuseCommand .notFound s
      | some (h, w) =>
        if w.draining then refuseCommand .retiring s
        else
          match w.body with
          | .plain _ => refuseCommand .wrongKind s
          | .tracked _ _ => refuseCommand .wrongKind s
          | .view _ => refuseCommand .wrongKind s
          | .paired p =>
            let v := viewWindow (opr s 2) readMask group h w
            if !rangeAllowed v.base v.pages then refuseCommand .badOperand s
            else if !s.groups.isOpen group then refuseCommand .protected_ s
            else if rangeOverlaps v s then refuseCommand .overlap s
            else fillAndComplete i v (s.setPaired h.index w { p with views := p.views + 1 })

def execView (cnt : BitVec 8) (s : State) : Result := takeCommand codeView cnt viewCommand s

/-! ### MODIFY -/

/-- MODIFY's rights: the masks and the group, none when one fails R153 check 3. -/
def modifyOperands (s : State) (w : Window) : Option (BitVec 4 × BitVec 4 × Fin 4) := do
  let readMask ← maskOf (field (opr s 1) 8 8)
  let writeMask ← maskOf (field (opr s 1) 16 8)
  let group ← groupOf (field (opr s 1) 4 4)
  if w.kind == .view && writeMask != 0 then none else some (readMask, writeMask, group)

/-- The lock's holder would lose a right (R153 check 5). -/
def holderLosesRight (h : Handle) (readMask writeMask : BitVec 4) (s : State) : Bool :=
  match s.lockHolder h with
  | none => false
  | some p => !(inMask readMask p && inMask writeMask p)

/-- MODIFY: its checks in the order of R153, then the change of R154. -/
def modifyCommand (s : State) : State :=
  match oprWindow s with
  | none => refuseCommand .notFound s
  | some (h, w) =>
    if w.draining then refuseCommand .retiring s
    else
      match modifyOperands s w with
      | none => refuseCommand .badOperand s
      | some (readMask, writeMask, group) =>
        if !(s.groups.isOpen w.group && s.groups.isOpen group) then refuseCommand .protected_ s
        else if holderLosesRight h readMask writeMask s then refuseCommand .locked s
        else
          complete .done [rightsWord w.group w.readMask w.writeMask]
            (s.setWindow h.index { w with readMask := readMask, writeMask := writeMask, group := group })

def execModify (cnt : BitVec 8) (s : State) : Result := takeCommand codeModify cnt modifyCommand s

/-! ### RETIRE -/

/-- Free the window now and complete with DONE (R156). -/
def retireNow (h : Handle) (s : State) : State := complete .done [] (freeWindow h s)

/-- RETIRE of a PAIRED window without FLUSH (R156, R158): at the next line boundary when a publish of it
is copying, and otherwise at once.  A publish PAUSED on the window, which R131 leaves unlocked between an
unlock notice and its continue, ends at once (R66; log 16). -/
def retirePaired (h : Handle) (s : State) : State :=
  if s.pubUnit.handle? = some h then
    (if s.pausedOn h then takeReport h (.abandoned .retired) (retireNow h (unitReady s))
     else requestAbandon .retired s)
  else retireNow h s

/-- RETIRE with FLUSH: DRAINING, at the tail of the drain queue, ACCEPTED; an IDLE engine makes its
choice (R115, R157). -/
def enterDraining (h : Handle) (w : Window) (p : Paired) (s : State) : State :=
  let t := complete .accepted []
    (modEngine (fun e => { e with drainQueue := e.drainQueue ++ [h] })
      (s.setPaired h.index w { p with drain := some 0 }))
  if t.engine.state = .idle then boundaryChoice t else t

/-- RETIRE: its checks in the order of R155, then its effect by kind, state and option. -/
def retireCommand (s : State) : State :=
  let flush := bitAt (opr s 1) 0
  match oprWindow s with
  | none => refuseCommand .notFound s
  | some (h, w) =>
    if s.isLocked h then refuseCommand .locked s
    else if !s.groups.isOpen w.group then refuseCommand .protected_ s
    else if w.draining && flush then refuseCommand .retiring s
    else
      match w.body with
      | .plain _ => retireNow h s
      | .tracked _ _ => retireNow h s
      | .view _ => retireNow h s
      | .paired p =>
        if 0 < p.views then refuseCommand .hasViews s
        else if flush then enterDraining h w p s
        else retirePaired h s

def execRetire (cnt : BitVec 8) (s : State) : Result :=
  takeCommand codeRetire cnt (fun t => arbitrate (retireCommand t)) s

/-! ### QUERY -/

/-- The kind-dependent fields of a QUERY. -/
structure QueryBody where
  drain : Nat
  bank : Nat
  views : Nat
  gen : Nat
  dirty : Nat
  pos : Nat
  live : Word
  bankA : Word
  bankB : Word
  work : Nat
  carry : Nat

/-- The results that do not apply are 0, and a set field that does not apply is absent (R160). -/
def queryBody (b : Body) : QueryBody :=
  let none_ : QueryBody :=
    { drain := 0, bank := 0, views := 0, gen := 0, dirty := setField none, pos := setField none,
      live := 0, bankA := 0, bankB := 0, work := setField none, carry := setField none }
  match b with
  | .plain l => { none_ with live := l }
  | .tracked l d => { none_ with live := l, dirty := setField (some d) }
  | .view h => { none_ with live := at_ 0 (handleField h) }
  | .paired p =>
    { drain := p.drain.getD 0, bank := p.current.code, views := p.views, gen := p.gen.toNat,
      dirty := setField (some p.dirty),
      pos := match p.work with
             | none => setField none
             | some k => k.pos,
      live := p.live, bankA := p.bankA, bankB := p.bankB,
      work := setField (p.work.map Working.set), carry := setField (some p.carry) }

/-- What QUERY reports of a window (R160's table). -/
structure QueryReport where
  state : Nat
  inst : BitVec 8
  kind : Kind
  base : Word
  pages : Nat
  lineSize : LineSize
  lineCount : Nat
  readMask : BitVec 4
  writeMask : BitVec 4
  group : Fin 4
  groupOpen : Bool
  holder : Option PortId
  body : QueryBody

/-- The record, the lock table and the group flag as one event finds them (R160, R161). -/
def queryReport (s : State) (h : Handle) (w : Window) : QueryReport :=
  { state := w.stateCode, inst := h.inst, kind := w.kind, base := w.base, pages := w.pages,
    lineSize := w.lineSize, lineCount := w.lineCount, readMask := w.readMask, writeMask := w.writeMask,
    group := w.group, groupOpen := s.groups.isOpen w.group, holder := s.lockHolder h,
    body := queryBody w.body }

/-- QUERY's result words: the report in the places of the QUERY table, and 0 in every other result bit (R178,
11.4).  The table has no place for the two masks (log 26). -/
def QueryReport.words (r : QueryReport) : List Word :=
  [ at_ 0 r.state ||| at_ 2 r.body.drain ||| at_ 4 r.kind.code ||| at_ 7 r.body.bank |||
      at_ 8 r.inst.toNat ||| at_ 16 r.group.val ||| flagAt 18 r.groupOpen |||
      flagAt 19 r.holder.isSome ||| at_ 20 ((r.holder.map Fin.val).getD 0) ||| at_ 22 r.body.views,
    r.base &&& 0xFFFFF000#32 ||| at_ 9 r.lineSize.code ||| at_ 0 r.pages,
    at_ 0 r.body.gen ||| at_ 16 r.lineCount,
    at_ 0 r.body.dirty ||| at_ 16 r.body.pos,
    r.body.live, r.body.bankA, r.body.bankB,
    at_ 0 r.body.work ||| at_ 16 r.body.carry ]

/-- QUERY's result words for a window (R160). -/
def queryWords (s : State) (h : Handle) (w : Window) : List Word := (queryReport s h w).words

/-- QUERY: the record of the window its handle matches (R160). -/
def queryCommand (s : State) : State :=
  match oprWindow s with
  | none => refuseCommand .notFound s
  | some (h, w) => complete .done (queryWords s h w) s

def execQuery (cnt : BitVec 8) (s : State) : Result := takeCommand codeQuery cnt queryCommand s

/-! ### LOOKUP -/

/-- The store address LOOKUP reports: in the live region, or in the bank of the source that is current
now (R162). -/
def lookupStore (s : State) (w : Window) (off : Nat) : Nat :=
  match w.body with
  | .plain l => l.toNat + off
  | .tracked l _ => l.toNat + off
  | .paired p => p.live.toNat + off
  | .view src =>
    match s.paired? src with
    | none => 0
    | some (_, p) => p.bankOffset p.current + off

/-- The window is a VIEW whose source has never been published (R28, R162). -/
def unpublished (s : State) (w : Window) : Bool :=
  match w.body with
  | .plain _ => false
  | .tracked _ _ => false
  | .paired _ => false
  | .view src =>
    match s.paired? src with
    | none => true
    | some (_, p) => p.gen == 0

/-- LOOKUP's result words (R162, 11.4). -/
def lookupWords (s : State) (p : PortId) (i : SlotId) (w : Window) (a : Nat) : List Word :=
  let off := a - w.base.toNat
  [ at_ 0 (handleField (s.handleAt i)) ||| at_ 16 w.kind.code ||| at_ 20 w.stateCode |||
      flagAt 24 (inMask w.readMask p) ||| flagAt 25 (inMask w.writeMask p) |||
      flagAt 26 ((s.port p).state == .active) ||| flagAt 27 (unpublished s w),
    at_ 0 off, at_ 0 (off / w.lineSize.bytes), BitVec.ofNat 32 (lookupStore s w off) ]

/-- The slot that holds an address, with its window (R12). -/
def State.windowAt (s : State) (a : Nat) : Option (SlotId × Window) :=
  match s.lookup a with
  | none => none
  | some i =>
    match (s.slot i).win with
    | none => none
    | some w => some (i, w)

/-- LOOKUP: the window that holds a byte address, for a port (R162). -/
def lookupCommand (s : State) : State :=
  match portOf (field (opr s 0) 0 8) with
  | none => refuseCommand .badOperand s
  | some p =>
    match s.windowAt (opr s 1).toNat with
    | none => refuseCommand .miss s
    | some (i, w) => complete .done (lookupWords s p i w (opr s 1).toNat) s

def execLookup (cnt : BitVec 8) (s : State) : Result := takeCommand codeLookup cnt lookupCommand s

/-! ### GROUP -/

/-- The flags of groups 1 to 3 in bits 1 to 3 (11.4). -/
def groupWord (g : GroupFlags) : Word := flagAt 1 g.g1 ||| flagAt 2 g.g2 ||| flagAt 3 g.g3

/-- A group number of 1, 2 or 3. -/
def flaggedGroup (n : BitVec 8) : Option (Fin 4) :=
  if n = 1 then some 1 else if n = 2 then some 2 else if n = 3 then some 3 else none

/-- GROUP: set one enable flag, returning the flags as they stood (R148). -/
def groupCommand (s : State) : State :=
  match flaggedGroup (field (opr s 0) 0 8), settingOf (field (opr s 1) 0 2) with
  | some n, some v =>
    complete .done [groupWord s.groups] { s with groups := s.groups.set n v }
  | none, _ => refuseCommand .badOperand s
  | some _, none => refuseCommand .badOperand s

def execGroup (cnt : BitVec 8) (s : State) : Result := takeCommand codeGroup cnt groupCommand s

/-! ### COLLECT -/

/-- COLLECT's result words: returned count, WHOLE, remaining count, and the indices (R56, R57, 11.4). -/
def collectWords (taken : List Nat) (whole : Bool) (remaining : Nat) : List Word :=
  (at_ 0 taken.length ||| flagAt 5 whole ||| at_ 6 remaining) ::
    (List.range 7).map (packedWord taken)

/-- COLLECT: take up to 16 indices from the front of a TRACKED window's D, or WHOLE (R55 to R57). -/
def collectCommand (s : State) : State :=
  match oprWindow s with
  | none => refuseCommand .notFound s
  | some (h, w) =>
    match w.body with
    | .plain _ => refuseCommand .wrongKind s
    | .paired _ => refuseCommand .wrongKind s
    | .view _ => refuseCommand .wrongKind s
    | .tracked live .whole =>
      complete .done (collectWords [] true 0)
        (s.setWindow h.index { w with body := .tracked live (.lines []) })
    | .tracked live (.lines l) =>
      complete .done (collectWords (l.take 16) false (l.drop 16).length)
        (setFree (s.free + (l.take 16).length)
          (s.setWindow h.index { w with body := .tracked live (.lines (l.drop 16)) }))

def execCollect (cnt : BitVec 8) (s : State) : Result := takeCommand codeCollect cnt collectCommand s

end Sys2Proof.Machine
end

