-- ==== Sys2Proof/Machine/GuardCommands.lean ====
section
/-! DEFINITION. The guard commands GUARD, UNGUARD and GUARDQ (ch. 8). -/

namespace Sys2Proof.Machine

/-- Low is not above high, as signedness reads them (R137). -/
def rangeOrdered (sign : Signedness) (low high : Word) : Bool :=
  match sign with
  | .unsigned => low.ule high
  | .signed => low.sle high

/-- The guard record that GUARD's operands describe for a window, none when one fails R137 check 4. -/
def guardOperands (s : State) (h : Handle) (w : Window) : Option Guard := do
  let sign ← signOf (field (opr s 4) 0 2)
  let action ← actionOf (field (opr s 4) 4 2)
  let mask ← maskOf (field (opr s 4) 8 8)
  let offset := (field (opr s 1) 0 20).toNat
  if offset % 4 == 0 && decide (offset < w.size) && mask != 0 && rangeOrdered sign (opr s 2) (opr s 3)
  then
    some { window := h, offset := offset, low := opr s 2, high := opr s 3, sign := sign,
           action := action, mask := mask, trip := none }
  else none

/-- The record is SET with this window and word offset (R137 check 5). -/
def guardNames (h : Handle) (offset : Nat) : Option Guard → Bool
  | none => false
  | some g => g.window == h && g.offset == offset

/-- The lowest FREE guard record (R137). -/
def State.freeGuard? (s : State) : Option GuardId :=
  (List.finRange 16).find? fun i => (s.guard i).isNone

/-- GUARD: its checks in the order of R137, then the filling of the lowest FREE record. -/
def guardCommand (s : State) : State :=
  match oprWindow s with
  | none => refuseCommand .notFound s
  | some (h, w) =>
    if w.kind == .view then refuseCommand .wrongKind s
    else if !s.groups.isOpen w.group then refuseCommand .protected_ s
    else
      match guardOperands s h w with
      | none => refuseCommand .badOperand s
      | some g =>
        if s.guards.toList.any (guardNames h g.offset) then refuseCommand .duplicate s
        else
          match s.freeGuard? with
          | none => refuseCommand .noSpace s
          | some i => complete .done [at_ 0 i.val] (s.setGuard i (some g))

def execGuard (cnt : BitVec 8) (s : State) : Result := takeCommand codeGuard cnt guardCommand s

/-- The group of a guard's window is open (R138). -/
def guardGroupOpen (g : Guard) (s : State) : Bool :=
  match s.window? g.window with
  | none => true
  | some w => s.groups.isOpen w.group

/-- UNGUARD: free one SET record together with its trip record (R138). -/
def unguardCommand (s : State) : State :=
  match guardOf (field (opr s 0) 0 8) with
  | none => refuseCommand .badOperand s
  | some i =>
    match s.guard i with
    | none => refuseCommand .notFound s
    | some g =>
      if guardGroupOpen g s then complete .done [] (s.setGuard i none)
      else refuseCommand .protected_ s

def execUnguard (cnt : BitVec 8) (s : State) : Result := takeCommand codeUnguard cnt unguardCommand s

/-- The trip fields of GUARDQ: tripping value, port, count (11.4). -/
def tripWords : Option Trip → Word × Word
  | none => (0, 0)
  | some t => (flagAt 1 true ||| at_ 16 t.port.val ||| at_ 24 t.count, t.value)

/-- GUARDQ's result words (R139, 11.4): a FREE record returns 0. -/
def guardWords : Option Guard → List Word
  | none => []
  | some g =>
    [ flagAt 0 true ||| (tripWords g.trip).1 ||| at_ 2 g.sign.code ||| at_ 4 g.action.code |||
        at_ 8 g.mask.toNat,
      at_ 0 (handleField g.window), at_ 0 g.offset, g.low, g.high, (tripWords g.trip).2 ]

/-- The record with its trip record cleared. -/
def clearTrip : Option Guard → Option Guard
  | none => none
  | some g => some { g with trip := none }

/-- GUARDQ: return one record, and with the clear option clear its trip record (R139). -/
def guardqCommand (s : State) : State :=
  match guardOf (field (opr s 0) 0 8) with
  | none => refuseCommand .badOperand s
  | some i =>
    complete .done (guardWords (s.guard i))
      (if bitAt (opr s 1) 0 then s.setGuard i (clearTrip (s.guard i)) else s)

def execGuardq (cnt : BitVec 8) (s : State) : Result := takeCommand codeGuardq cnt guardqCommand s

end Sys2Proof.Machine
end

