-- ==== Sys2Proof/Machine/LockCommands.lean ====
section
/-! DEFINITION. The lock commands (BREAK in its two forms), PORT, and the hold timer (ch. 7, R38, R39). -/

namespace Sys2Proof.Machine

/-- BREAK in form BREAK_ONE: break the named port's lock, if it holds one (R127). -/
def breakOneForm (s : State) : State :=
  match portOf (field (opr s 1) 0 8) with
  | none => refuseCommand .badOperand s
  | some p =>
    match s.lock p with
    | none => complete .done [] s
    | some l => complete .done [flagAt 0 true, at_ 0 (handleField l.window)] (breakLock p s)

/-- BREAK in form SET_LIMIT: set the hold limit, returning the former one (R128). -/
def setLimitForm (s : State) : State :=
  if 65535 < (opr s 2).toNat then refuseCommand .badOperand s
  else complete .done [at_ 0 s.holdLimit] { s with holdLimit := (opr s 2).toNat }

/-- BREAK: the form is in OPR0 (R127). -/
def breakCommand (s : State) : State :=
  if field (opr s 0) 0 2 = 1 then breakOneForm s
  else if field (opr s 0) 0 2 = 2 then setLimitForm s
  else refuseCommand .badOperand s

/-- BREAK as the row of form BREAK_ONE; the form is read from OPR0 (log 5). -/
def execBreakOne (cnt : BitVec 8) (s : State) : Result := takeCommand codeBreak cnt breakCommand s

/-- BREAK as the row of form SET_LIMIT; the form is read from OPR0 (log 5). -/
def execSetLimit (cnt : BitVec 8) (s : State) : Result := takeCommand codeBreak cnt breakCommand s

/-- The port enters a state; STANDBY breaks the lock it holds (R38, R39). -/
def setPortState (p : PortId) (st : PortState) (s : State) : State :=
  let t := s.setPort p { s.port p with state := st }
  match st with
  | .active => t
  | .standby => breakLock p t

/-- PORT (R38). -/
def portCommand (s : State) : State :=
  match portOf (field (opr s 0) 0 8), portStateOf (field (opr s 1) 0 2) with
  | some p, some st => complete .done [] (setPortState p st s)
  | none, _ => refuseCommand .badOperand s
  | some _, none => refuseCommand .badOperand s

def execPort (cnt : BitVec 8) (s : State) : Result := takeCommand codePort cnt portCommand s

/-- The port's hold timer is running. -/
def timerRuns : Option Lock → Bool
  | none => false
  | some l =>
    match l.timer with
    | none => false
    | some (.running _) => true
    | some (.stopped _ _) => false

/-- A running hold timer's remaining time reaches 0: the lock is broken (R125).  A stopped timer, or
none, does not expire. -/
def holdExpires (p : PortId) (s : State) : State :=
  if timerRuns (s.lock p) then breakLock p s else s

def execHoldExpiry (p : PortId) (s : State) : Result := whenRunning (fun t => .next (holdExpires p t)) s

end Sys2Proof.Machine
end

