-- ==== Sys2Proof/Machine/Access.lean ====
section
/-! DEFINITION. Requester accesses from their taking to their response (ch. 2). -/

namespace Sys2Proof.Machine

/-- The aligned address: the nearest multiple of the size at or below it (R22). -/
def alignAddress (a : Word) (z : AccessSize) : Word :=
  BitVec.ofNat 32 (a.toNat / sizeBytes z * sizeBytes z)

/-- The class needs the read right (R21). -/
def needsRead : AccessClass → Bool
  | .read => true
  | .fetch => true
  | .lockRead => true
  | .write => false
  | .releaseWrite => false

/-- The class needs the write right (R21). -/
def needsWrite : AccessClass → Bool
  | .read => false
  | .fetch => false
  | .lockRead => true
  | .write => true
  | .releaseWrite => true

/-- The port has the rights the class needs (R27). -/
def hasRights (p : PortId) (c : AccessClass) (w : Window) : Bool :=
  (!needsRead c || inMask w.readMask p) && (!needsWrite c || inMask w.writeMask p)

/-- Checks 3 to 5, made on the record copy (R27, R28): the refusal, or none when they pass. -/
def lookupCheck (p : PortId) (c : AccessClass) (w : Window) (s : State) : Option Resp :=
  if !hasRights p c w then some .denied
  else if w.draining && needsWrite c then some .retiring
  else if unpublished s w then some .unpublished
  else none

/-- The access that a hit gives (R13, R14, R26). -/
def newAccess (c : AccessClass) (z : AccessSize) (a : Word) (d : BitVec 64) (h : Handle) (w : Window) :
    Access :=
  { cls := c, size := z, addr := a, data := d, handle := h, record := w,
    offset := a.toNat - w.base.toNat, line := (a.toNat - w.base.toNat) / w.lineSize.bytes }

/-- Answer an access that hit no window: PORT_OFF or MISS, with its fault (R26, R36). -/
def answerUnhit (p : PortId) (c : AccessClass) (z : AccessSize) (a : Word) (r : Resp) (s : State) :
    State :=
  respond p r (zeroData c z) (accessFault p c a r none s)

/-- An access that passed checks 1 to 5 stands at the arbiter (R23, R40). -/
def placeRequest (p : PortId) (a : Access) (s : State) : State :=
  arbitrate (s.setPort p { s.port p with access := some { acc := a, stage := .waiting }, response := none })

/-- An access is taken (R22, R25 to R28). -/
def takeAccess (p : PortId) (c : AccessClass) (z : AccessSize) (addr : Word) (d : BitVec 64) (s : State) :
    State :=
  let a := alignAddress addr z
  if (s.port p).state = .standby then answerUnhit p c z a .portOff s
  else
    match s.windowAt a.toNat with
    | none => answerUnhit p c z a .miss s
    | some (i, w) =>
      let acc := newAccess c z a d (s.handleAt i) w
      match lookupCheck p c w s with
      | some r => refuse p acc r s
      | none => placeRequest p acc s

/-- REQUESTER_ACCESS.  While an access of the port is in progress the port takes no other (R23;
log 23). -/
def execRequester (p : PortId) (c : AccessClass) (z : AccessSize) (a : Word) (d : BitVec 64)
    (s : State) : Result :=
  whenRunning (fun t => if (t.port p).access.isSome then .next t else .next (takeAccess p c z a d t)) s

/-! ### The store access completes -/

/-- The port whose access holds the store port, with that access. -/
def State.grantedAccess (s : State) : Option (PortId × InProgress) :=
  match s.grant with
  | none => none
  | some .engine => none
  | some (.port p) =>
    match (s.port p).access with
    | none => none
    | some i => some (p, i)

/-- The bytes a write changes, lowest address first (R22). -/
def writeBytes (a : Access) : List Byte := natToBytes a.data.toNat (sizeBytes a.size)

/-- A store write's effect on the store, by its completion (R33; log 10). -/
def accessWrite (a : Access) (at? : Option Nat) (err : Bool) (s : State) : State :=
  match at? with
  | none => s
  | some x => if err then storeWriteFailed x (sizeBytes a.size) s else storeWrite x (writeBytes a) s

/-- The bytes a read returns, and the counter it leaves: the store's bytes, or for the view access of
log 12 bytes of which nothing is stated (R32). -/
def accessRead (a : Access) (at? : Option Nat) (s : State) : List Byte × Nat :=
  match at? with
  | none => (unstatedBytes s.fresh a.addr.toNat (sizeBytes a.size), s.fresh + 1)
  | some x => (storeRead s x (sizeBytes a.size), s.fresh)

/-- The hand-over of a write's line to the change tracker: made for a window that was TRACKED or PAIRED at
the lookup, and never for a PLAIN one, whatever the slot has come to hold since (R13, R33, R46). -/
def markWrite (a : Access) (s : State) : State :=
  if a.record.dirty?.isSome then markLine a.handle a.line s else s

/-- The hand-over of a write, and for a RELEASE_WRITE the release, in one event (R33, R35). -/
def handOver (p : PortId) (a : Access) (s : State) : State :=
  let t := markWrite a s
  if a.cls = .releaseWrite then finishRelease p a.handle t else t

/-- A read's completion (R31, R32). -/
def readDone (p : PortId) (a : Access) (at? : Option Nat) (err : Bool) (s : State) : State :=
  if err then refuse p a .storeError s
  else answer p a .ok (accessRead a at? s).1 { s with fresh := (accessRead a at? s).2 }

/-- A write's completion: the store, the hand-over, the response (R31, R33, R35). -/
def writeDone (p : PortId) (a : Access) (at? : Option Nat) (err : Bool) (s : State) : State :=
  answer p a (if err then .storeError else .ok) [] (handOver p a (accessWrite a at? err s))

/-- The store access of a port completes, and the store port is given up (R31, R40). -/
def storeDone (p : PortId) (a : Access) (at? : Option Nat) (err : Bool) (s : State) : State :=
  arbitrate (giveUp (if classReads a.cls then readDone p a at? err s else writeDone p a at? err s))

/-- The store access lies in the store. -/
def accessInStore (s : State) (a : Access) (at? : Option Nat) : Bool :=
  match at? with
  | none => true
  | some x => s.inStore x (sizeBytes a.size)

def storeAccessDone (err : Bool) (s : State) : Result :=
  match s.grantedAccess with
  | none => .next s
  | some (p, i) =>
    match i.stage with
    | .waiting => .next s
    | .merging _ => .next s
    | .storing at? =>
      if accessInStore s i.acc at? then .next (storeDone p i.acc at? err s) else .fault .storeOutside

/-- STORE_ACCESS_DONE: the store access of the port that holds the store port completes (R31).  With
none in flight it has no effect (log 23). -/
def execStoreDone (err : Bool) (s : State) : Result := whenRunning (storeAccessDone err) s

/-! ### The merging read completes -/

/-- The store offset of the word that a merging read reads (R30, R140). -/
def mergeAddress (s : State) (a : Access) : Option Nat :=
  (storeAddress s a).map fun x => x - a.offset % 4

/-- A merging read ends with an error: no check, no write; the line is marked, a release completes, and
the access is answered STORE_ERROR (R30, R31, R123). -/
def mergeFailed (p : PortId) (a : Access) (s : State) : State :=
  giveUp (answer p a .storeError [] (handOver p a s))

/-- A merging read completes: the guard check is made with the guards taken at the grant (R30, R143). -/
def mergeDone (p : PortId) (a : Access) (gs : List HeldGuard) (x : Nat) (elapsed : Nat) (s : State) :
    State :=
  finishCheck p a (gs.map fun g => (g, mergedWord a (storeRead s x 4))) elapsed s

def mergingReadDone (err : Bool) (elapsed : Nat) (s : State) : Result :=
  match s.grantedAccess with
  | none => .next s
  | some (p, i) =>
    match i.stage with
    | .waiting => .next s
    | .storing _ => .next s
    | .merging gs =>
      match mergeAddress s i.acc with
      | none => .next s
      | some x =>
        if s.inStore x 4 then
          .next (arbitrate
            (if err then mergeFailed p i.acc s else mergeDone p i.acc gs x elapsed s))
        else .fault .storeOutside

/-- MERGING_READ_DONE (R30).  With no merging read in flight it has no effect (log 23). -/
def execMergeDone (err : Bool) (elapsed : Nat) (s : State) : Result :=
  whenRunning (mergingReadDone err elapsed) s

end Sys2Proof.Machine
end

