-- ==== Sys2Proof/Machine/Copies.lean ====
section
/-! DEFINITION. The completions of a line copy's store accesses, and the continue (R64, R65, R74, R83,
R131). -/

namespace Sys2Proof.Machine

/-- The line copy that a restart left in flight has ended: the unit is READY, RESTART completes with
DONE, and work that a trigger began meanwhile is taken up (R83, R175; log 15). -/
def orphanEnd (s : State) : State := boundaryChoice (complete .done [] (unitReady s))

/-- A line copy has been made for an entry of the pass (R95; log 17). -/
def noteCopied (s : State) : State :=
  if s.engine.purpose = some .regular then modWork (fun w => { w with copied := true }) s else s

/-- The unit has reached a boundary: the engine takes its report (R62, R65). -/
def reportBoundary (h : Handle) (x : State × Option UnitReport) : State := takeReport? h x.2 x.1

/-- The store read of a line copy completes: the bytes are kept and the write is requested, or the
publish is abandoned (R64, R74). -/
def copyReadDone (r : PublishRecord) (n src len : Nat) (err : Bool) (s : State) : State :=
  if err then reportBoundary r.handle (failedBoundary r src false s)
  else { s with pubUnit := .writing r n (storeRead s src len) }

/-- The store write of a line copy completes: the line boundary (R64, R65, R74). -/
def copyWriteDone (r : PublishRecord) (n dst : Nat) (bs : List Byte) (err early : Bool) (s : State) : State :=
  if err then reportBoundary r.handle (failedBoundary r dst true (storeWriteFailed dst bs.length s))
  else
    reportBoundary r.handle
      (boundary early r (setCopyPosition r.handle (n + 1) (noteCopied (storeWrite dst bs s))))

/-- The read of a line copy that a restart left in flight completes (R83): its write is made, unless the
read ended with an error. -/
def orphanReadDone (src dst len : Nat) (err : Bool) (s : State) : State :=
  if err then orphanEnd s else { s with pubUnit := .orphanWriting dst (storeRead s src len) }

/-- The write of a line copy that a restart left in flight completes, unreported (R74, R83). -/
def orphanWriteDone (dst : Nat) (bs : List Byte) (err : Bool) (s : State) : State :=
  orphanEnd (if err then storeWriteFailed dst bs.length s else storeWrite dst bs s)

/-- A step of the unit that gives the store port up, with the grant decision after it (R40). -/
def unitStep (f : State → State) (s : State) : Result := .next (arbitrate (f (giveUp s)))

def lineCopyReadDone (err : Bool) (s : State) : Result :=
  if s.grant = some .engine then
    match s.pubUnit with
    | .ready => .next s
    | .paused _ => .next s
    | .writing _ _ _ => .next s
    | .orphanWriting _ _ => .next s
    | .reading r n =>
      match s.paired? r.handle with
      | none => unitStep unitReady s
      | some (w, p) =>
        if s.inStore (liveLine w p n) w.lineSize.bytes then
          unitStep (copyReadDone r n (liveLine w p n) w.lineSize.bytes err) s
        else .fault .storeOutside
    | .orphanReading src dst len =>
      if s.inStore src len then unitStep (orphanReadDone src dst len err) s else .fault .storeOutside
  else .next s

/-- LINE_COPY_READ_DONE (R64).  With no such read in flight it has no effect (log 23). -/
def execCopyRead (err : Bool) (s : State) : Result := whenRunning (lineCopyReadDone err) s

def lineBoundary (err early : Bool) (s : State) : Result :=
  if s.grant = some .engine then
    match s.pubUnit with
    | .ready => .next s
    | .paused _ => .next s
    | .reading _ _ => .next s
    | .orphanReading _ _ _ => .next s
    | .writing r n bs =>
      match s.paired? r.handle with
      | none => unitStep unitReady s
      | some (w, p) =>
        if s.inStore (bankLine w p r.idle n) bs.length then
          unitStep (copyWriteDone r n (bankLine w p r.idle n) bs err early) s
        else .fault .storeOutside
    | .orphanWriting dst bs =>
      if s.inStore dst bs.length then unitStep (orphanWriteDone dst bs err) s else .fault .storeOutside
  else .next s

/-- LINE_BOUNDARY (R65).  With no such write in flight it has no effect (log 23). -/
def execBoundary (e : BoundaryEvent) (s : State) : Result :=
  whenRunning (lineBoundary e.err e.early) s

/-! ### The continue -/

/-- The engine state a hold returns to (R131). -/
def HeldFrom.state : HeldFrom → EngineState
  | .run => .run
  | .urgent => .urgent

/-- The engine leaves HELD for its held-from state (R131). -/
def leaveHeld : State → State :=
  modEngine fun e =>
    { e with
      state := (e.heldFrom.map HeldFrom.state).getD e.state,
      heldFrom := none }

/-- The unit takes a continue in PAUSED with the window unlocked: it leaves PAUSED (R66, R131). -/
def leavePaused (r : PublishRecord) (s : State) : State :=
  match advance r (leaveHeld s) with
  | (t, true) => takeReport r.handle .flipped t
  | (t, false) => t

/-- The unit takes a continue (R66, R131). -/
def takeContinue (s : State) : State :=
  let t := { s with continues := s.continues - 1 }
  match s.pubUnit with
  | .ready => t
  | .reading _ _ => t
  | .writing _ _ _ => t
  | .orphanReading _ _ _ => t
  | .orphanWriting _ _ => t
  | .paused r => if s.isLocked r.handle then t else arbitrate (leavePaused r t)

/-- CONTINUE_PUBLISH (R131).  A continue that was not sent has no effect (log 4, log 23). -/
def execContinue (s : State) : Result :=
  whenRunning (fun t => if t.continues = 0 then .next t else .next (takeContinue t)) s

end Sys2Proof.Machine
end

