-- ==== Sys2Proof/Machine/EngineCommands.lean ====
section
/-! DEFINITION. The engine commands SEQ, USEQ, ENGSET, START, URGENT and STOP (ch. 5 and 6), and the
trigger inputs and the pace timer. -/

namespace Sys2Proof.Machine

/-! ### SEQ -/

/-- SEQ's effect on the pass in progress or suspended, once the list is in place (R87). -/
def seqEffect (s : State) : State :=
  if s.engine.context.isSome then restartPass (abandonContext s)
  else if s.engine.state = .held ∧ s.engine.purpose = some .regular then
    abandonHeld .seq (modEngine (fun e => { e with restartPass := true }) s)
  else if s.engine.purpose = some .regular then
    requestAbandon .seq (modEngine (fun e => { e with restartPass := true }) s)
  else if s.engine.working.isSome then
    (if s.engine.run.isSome then restartPass s
     else modEngine (fun e => { e with cursor := 0 }) (writePass .aborted s))
  else s

/-- SEQ: replace the regular sequence (R86, R87). -/
def seqCommand (cnt : BitVec 8) (s : State) : State :=
  if 16 < cnt.toNat then refuseCommand .badOperand s
  else
    match oprEntries s cnt.toNat with
    | none => refuseCommand .badOperand s
    | some l =>
      seqEffect (complete .done [] (modEngine (fun e => { e with regularSeq := l }) s))

def execSeq (cnt : BitVec 8) (s : State) : Result :=
  takeCommand codeSeq cnt (fun t => arbitrate (seqCommand cnt t)) s

/-! ### USEQ -/

/-- USEQ's effect on an urgent run in progress, once the list is in place (R107). -/
def useqEffect (s : State) : State :=
  if s.engine.urgentRun.isNone then s
  else
    let t := modEngine (fun e => { e with restartUrgent := true }) s
    if s.engine.state = .held then abandonHeld .useq t else requestAbandon .useq t

/-- USEQ: replace the urgent list (R106, R107). -/
def useqCommand (cnt : BitVec 8) (s : State) : State :=
  if 4 < cnt.toNat then refuseCommand .badOperand s
  else
    match oprEntries s cnt.toNat with
    | none => refuseCommand .badOperand s
    | some l =>
      useqEffect (complete .done [] (modEngine (fun e => { e with urgentList := l }) s))

def execUseq (cnt : BitVec 8) (s : State) : Result :=
  takeCommand codeUseq cnt (fun t => arbitrate (useqCommand cnt t)) s

/-! ### ENGSET and the pace timer -/

/-- The pace timer stopped, or started afresh with its first expiry one full period later (R89, R90). -/
def paceAfresh (c : EngineConfig) : Option Nat :=
  if c.paceEnable then some (c.pacePeriod * Config.paceUnit) else none

/-- The engine is busy for ENGSET (R88 check 1). -/
def engsetBusy (e : Engine) : Bool :=
  e.state != .idle || e.context.isSome || decide (0 < e.cursor)

/-- ENGSET's configuration, none when an operand fails R88 check 2. -/
def engsetOperands (s : State) : Option EngineConfig := do
  let mode ← modeOf (field (opr s 0) 0 2)
  let step := (field (opr s 0) 4 4).toNat
  let period := (field (opr s 1) 0 16).toNat
  let on := (field (opr s 2) 0 14).toNat
  let off := (field (opr s 2) 16 14).toNat
  if decide (1 ≤ step) && decide (step ≤ 8) && decide (1 ≤ period) && decide (on ≤ 8191) &&
      decide (1 ≤ off) && decide (off ≤ 8192) && decide (on < off)
  then
    some { mode := mode, step := step, autoUrgent := bitAt (opr s 0) 8,
           paceEnable := bitAt (opr s 0) 9, pacePeriod := period,
           trigREnable := bitAt (opr s 0) 10, trigUEnable := bitAt (opr s 0) 11,
           urgeOn := on, urgeOff := off }
  else none

/-- ENGSET: its checks in the order of R88, then every field in one event, with the thresholds compared
(R54) and the pace timer afresh (R89). -/
def engsetCommand (s : State) : State :=
  if engsetBusy s.engine then refuseCommand .engineBusy s
  else
    match engsetOperands s with
    | none => refuseCommand .badOperand s
    | some c =>
      if c.mode = .stepped ∧ c.autoUrgent = true then refuseCommand .badMode s
      else
        complete .done []
          (updateUrgency (modEngine (fun e => { e with config := c, paceTimer := paceAfresh c }) s))

def execEngset (cnt : BitVec 8) (s : State) : Result := takeCommand codeEngset cnt engsetCommand s

/-! ### START, URGENT, STOP -/

/-- A trigger command's completion (R93, R108). -/
def TriggerOutcome.status : TriggerOutcome → Status
  | .begun => .done
  | .pended => .accepted
  | .dropped => .engineBusy

/-- START: one regular trigger (R93). -/
def startCommand (s : State) : State :=
  match regularTrigger s with
  | (t, o) => complete o.status [] t

def execStart (cnt : BitVec 8) (s : State) : Result :=
  takeCommand codeStart cnt (fun t => arbitrate (startCommand t)) s

/-- URGENT: one urgent trigger (R108). -/
def urgentCommand (s : State) : State :=
  match urgentTrigger s with
  | (t, o) => complete o.status [] t

def execUrgent (cnt : BitVec 8) (s : State) : Result :=
  takeCommand codeUrgent cnt (fun t => arbitrate (urgentCommand t)) s

/-- STOP in HELD: the paused publish is abandoned at once, and the end of R103 follows (R101). -/
def stopHeld (s : State) : State :=
  match s.pubUnit with
  | .paused r => stopEnd (abandonPublish r.handle s)
  | .ready => stopEnd s
  | .reading _ _ => stopEnd s
  | .writing _ _ _ => stopEnd s
  | .orphanReading _ _ _ => stopEnd s
  | .orphanWriting _ _ => stopEnd s

/-- STOP in RUN, URGENT or DRAIN: STOPPING, and an abandon asked of the unit (R102). -/
def enterStopping (s : State) : State :=
  requestAbandon .stop (modEngine (fun e => { e with state := .stopping }) s)

/-- STOP (R101). -/
def stopCommand (s : State) : State :=
  match s.engine.state with
  | .idle => complete .done [] s
  | .held => stopHeld s
  | .run => enterStopping s
  | .urgent => enterStopping s
  | .drain => enterStopping s
  | .stopping => s

def execStop (cnt : BitVec 8) (s : State) : Result :=
  takeCommand codeStop cnt (fun t => arbitrate (stopCommand t)) s

/-! ### Trigger inputs and the pace timer -/

/-- A rising edge on TRIG_R (R91). -/
def trigR (s : State) : State :=
  if s.engine.config.trigREnable then arbitrate (regularTrigger s).1 else s

def execTrigR (s : State) : Result := whenRunning (fun t => .next (trigR t)) s

/-- A rising edge on TRIG_U (R108). -/
def trigU (s : State) : State :=
  if s.engine.config.trigUEnable then arbitrate (urgentTrigger s).1 else s

def execTrigU (s : State) : Result := whenRunning (fun t => .next (trigU t)) s

/-- The pace timer expires: one regular trigger, and the next period begins (R90).  A stopped timer has
no expiry. -/
def paceExpires (s : State) : State :=
  if s.engine.paceTimer.isSome then
    arbitrate (regularTrigger
      (modEngine (fun e => { e with paceTimer := some (e.config.pacePeriod * Config.paceUnit) }) s)).1
  else s

def execPace (s : State) : Result := whenRunning (fun t => .next (paceExpires t)) s

end Sys2Proof.Machine
end

