-- ==== Sys2Proof/Machine/Resets.lean ====
section
/-! DEFINITION. RESTART, and the cold reset (ch. 10). -/

namespace Sys2Proof.Machine

/-! ### RESTART -/

/-- A window kept by a restart: D and C WHOLE, W absent (R20, R60). -/
def restartWindow (w : Window) : Window :=
  match w.body with
  | .plain _ => w
  | .view _ => w
  | .tracked l _ => { w with body := .tracked l .whole }
  | .paired p => { w with body := .paired { p with dirty := .whole, work := none, carry := .whole } }

/-- A slot after a restart: a DRAINING window is freed, an ACTIVE one kept (R20). -/
def restartSlot (x : Slot) : Slot :=
  match x.win with
  | none => x
  | some w => if w.draining then { x with win := none } else { x with win := some (restartWindow w) }

/-- The guards of DRAINING windows are freed, the others kept with their trip records (R20, R145). -/
def restartGuard (s : State) (g : Option Guard) : Option Guard :=
  match g with
  | none => none
  | some x =>
    match s.window? x.window with
    | none => some x
    | some w => if w.draining then none else some x

/-- A line copy in flight is left to end; a paused publish ends (R20, R83). -/
def restartUnit (s : State) : PubUnit :=
  match s.pubUnit with
  | .ready => .ready
  | .paused _ => .ready
  | .orphanReading src dst len => .orphanReading src dst len
  | .orphanWriting dst bs => .orphanWriting dst bs
  | .reading r n =>
    match s.paired? r.handle with
    | none => .ready
    | some (w, p) => .orphanReading (liveLine w p n) (bankLine w p r.idle n) w.lineSize.bytes
  | .writing r n bs =>
    match s.paired? r.handle with
    | none => .ready
    | some (w, p) => .orphanWriting (bankLine w p r.idle n) bs

/-- The engine after a restart: the lists and the configuration kept, the pace timer afresh (R105,
R119). -/
def restartEngine (e : Engine) : Engine :=
  { Engine.cold with
    regularSeq := e.regularSeq, urgentList := e.urgentList, config := e.config,
    paceTimer := paceAfresh e.config }

/-- The restart event (R174, with the rules it names). -/
def restartEvent (s : State) : State :=
  { s with
    slots := s.slots.map restartSlot,
    groups := .closed,
    free := Config.poolSize, urgency := false,
    pubUnit := restartUnit s, continues := 0,
    engine := restartEngine s.engine,
    locks := Vector.replicate 4 none,
    guards := s.guards.map (restartGuard s),
    cmd := { s.cmd with word := 0 },
    events := { pending := 0, enabled := 0, capture := none, more := false,
                retireReport := .zero, cause := .restart } }

/-- RESTART: the restart is taken at acceptance, and the command completes then unless a line copy is in
flight (R174, R175). -/
def restartCommand (s : State) : State :=
  let t := restartEvent s
  if t.pubUnit = .ready then complete .done [] t else t

def execRestart (cnt : BitVec 8) (s : State) : Result := takeCommand codeRestart cnt restartCommand s

/-! ### Cold reset -/

/-- A write that a cold reset finds in flight may or may not have completed (R19, R43, R82; log 11). -/
def maybeWrite (x : Nat) (bs : List Byte) (s : State) : State :=
  let t := { s with fresh := s.fresh + 1 }
  if Config.interruptedWriteLands s.fresh && s.inStore x bs.length then storeWrite x bs t else t

/-- The store write in flight at a cold reset, if there is one. -/
def interruptAccess (i : InProgress) (s : State) : State :=
  match i.stage with
  | .waiting => s
  | .merging _ => s
  | .storing none => s
  | .storing (some x) => if classReads i.acc.cls then s else maybeWrite x (writeBytes i.acc) s

/-- The line copy's write in flight at a cold reset, if there is one (R82). -/
def interruptCopy (s : State) : State :=
  match s.pubUnit with
  | .ready => s
  | .paused _ => s
  | .reading _ _ => s
  | .orphanReading _ _ _ => s
  | .orphanWriting dst bs => maybeWrite dst bs s
  | .writing r n bs =>
    match s.paired? r.handle with
    | none => s
    | some (w, p) => maybeWrite (bankLine w p r.idle n) bs s

/-- What a cold reset leaves of the store access in flight. -/
def interruptStore (s : State) : State :=
  match s.grant with
  | none => s
  | some .engine => interruptCopy s
  | some (.port p) =>
    match (s.port p).access with
    | none => s
    | some i => interruptAccess i s

/-- A port whose access in progress a cold reset has ended without a response (R24). -/
def endAccess (x : Port) : Port := { x with access := none, response := none }

/-- What holds the part in reset: an assertion of RESET during the power-on reset makes no second reset
(R173). -/
def coldCause (now : Option ColdCause) (c : ColdCause) : ColdCause :=
  match now with
  | some .powerOn => .powerOn
  | some .pin => c
  | none => c

/-- A cold reset begins: the part is held in reset, and accesses, requests, the grant and a line copy end
(R24, R43, R82, R176). -/
def coldResetBegins (c : ColdCause) (s : State) : State :=
  let t := interruptStore s
  { t with
    inReset := some (coldCause s.inReset c),
    ports := t.ports.map endAccess,
    grant := none, pubUnit := .ready, continues := 0 }

/-- COLD_RESET (R176). -/
def execColdReset (c : ColdCause) (s : State) : Result := .next (coldResetBegins c s)

/-- COLD_RESET_END: the straps are sampled and every block takes its cold values (R176).  Without a cold
reset in progress it has no effect (log 23). -/
def execColdResetEnd (size : BitVec 2) (ports : BitVec 4) (s : State) : Result :=
  match s.inReset with
  | none => .next s
  | some c => .next (State.cold c size ports s.store s.fresh s.pending)

end Sys2Proof.Machine
end

