-- ==== Sys2Proof/Machine/Management.lean ====
section
/-! DEFINITION. The register window: writes to its words, and what each word reads as (ch. 10, 11). -/

namespace Sys2Proof.Machine

/-! ### Writes -/

/-- A command whose code names none: accepted, and completed at once with UNKNOWN (R165). -/
def unknownBody (s : State) : State := refuseCommand .unknown s

/-- A write to the command word, carried out by its code (R165). -/
def commandWordWrite (w : Word) (s : State) : Result :=
  let cnt := cmdCount w
  let code := cmdCode w
  if code = codeOpen then execOpen cnt s
  else if code = codeView then execView cnt s
  else if code = codeModify then execModify cnt s
  else if code = codeRetire then execRetire cnt s
  else if code = codeQuery then execQuery cnt s
  else if code = codeLookup then execLookup cnt s
  else if code = codeGroup then execGroup cnt s
  else if code = codeCollect then execCollect cnt s
  else if code = codeGuard then execGuard cnt s
  else if code = codeUnguard then execUnguard cnt s
  else if code = codeGuardq then execGuardq cnt s
  else if code = codeSeq then execSeq cnt s
  else if code = codeUseq then execUseq cnt s
  else if code = codeEngset then execEngset cnt s
  else if code = codeStart then execStart cnt s
  else if code = codeUrgent then execUrgent cnt s
  else if code = codeStop then execStop cnt s
  else if code = codeBreak then execBreakOne cnt s
  else if code = codePort then execPort cnt s
  else if code = codeRestart then execRestart cnt s
  else takeCommand code cnt unknownBody s

/-- UNKNOWN_COMMAND: the word's code decides (R165; log 5). -/
def execUnknown (w : Word) (s : State) : Result := commandWordWrite w s

/-- COMMAND_WORD_IGNORED: discarded while BUSY, whatever the word; the word's code decides otherwise
(R165; log 5). -/
def execIgnored (w : Word) (s : State) : Result := commandWordWrite w s

/-- A write to an operand word replaces it whole, IDLE or BUSY (R166). -/
def writeOperand (n : Fin 8) (v : Word) (s : State) : State :=
  { s with cmd := { s.cmd with operands := s.cmd.operands.set n v } }

def execOperandWrite (n : Fin 8) (v : Word) (s : State) : Result :=
  whenRunning (fun t => .next (writeOperand n v t)) s

/-- A write to the event pending set clears the events written 1 (R169). -/
def clearEvents (v : Word) (s : State) : State :=
  { s with events := { s.events with pending := s.events.pending &&& ~~~(v.setWidth 11) } }

def execEventClear (v : Word) (s : State) : Result := whenRunning (fun t => .next (clearEvents v t)) s

/-- A write to the event enable set replaces it (R170); bits 31:11 are ignored (R177). -/
def writeEnables (v : Word) (s : State) : State :=
  { s with events := { s.events with enabled := v.setWidth 11 } }

def execEventEnable (v : Word) (s : State) : Result := whenRunning (fun t => .next (writeEnables v t)) s

/-- A write of 1 to FAULT_CLEAR empties the capture and clears MORE; a write of 0 has no effect (R172;
log 18). -/
def clearFault (v : Word) (s : State) : State :=
  if bitAt v 0 then { s with events := { s.events with capture := none, more := false } } else s

def execFaultClear (v : Word) (s : State) : Result := whenRunning (fun t => .next (clearFault v t)) s

/-- The operand word at an offset of the register window, OPR0 to OPR7 (11.1). -/
def operandAt (o : Nat) : Option (Fin 8) :=
  if h : 0x010 ≤ o ∧ o ≤ 0x02C then some ⟨(o - 0x010) / 4, by omega⟩ else none

/-- A write at a management address (R177). -/
def managementWrite (a v : Word) (s : State) : Result :=
  let o := windowOffset a
  if o = 0x008 then commandWordWrite v s
  else if o = 0x050 then execEventClear v s
  else if o = 0x054 then execEventEnable v s
  else if o = 0x05C then execFaultClear v s
  else
    match operandAt o with
    | some n => execOperandWrite n v s
    | none => .next s

/-- REGISTER_WRITE_DISCARDED: a write to a read-only or unused word has no effect; the address decides
(R177; log 5). -/
def execDiscarded (a v : Word) (s : State) : Result := managementWrite a v s

/-! ### Reads -/

def statusWord (c : CommandUnit) : Word :=
  at_ 0 c.status.code ||| at_ 8 c.code.toNat ||| flagAt 16 c.ignored

def idWord (s : State) : Word :=
  at_ 0 Config.partCode ||| at_ 16 Config.revisionCode ||| at_ 24 s.storeStrap.toNat

/-- FLT0 to FLT3 (11.5): an empty capture reads 0.  A record without a window index reads 0 in the index bits of
FLT3 too (the model's choice, log 36). -/
def faultWords (e : EventUnit) : List Word :=
  match e.capture with
  | none => []
  | some (.access p c a r i) =>
    [ flagAt 0 true ||| flagAt 1 e.more,
      at_ 0 p.val ||| at_ 4 (classCode c) ||| at_ 8 r.code,
      a,
      match i with
      | none => 0
      | some x => at_ 0 x.val ||| flagAt 8 true ]
  | some (.lineCopy a write i) =>
    [ flagAt 0 true ||| flagAt 1 e.more,
      at_ 0 4 ||| at_ 4 6 ||| at_ 8 (if write then 2 else 1),
      a,
      at_ 0 i.val ||| flagAt 8 true ]

/-- PASS0 or URG0 (11.6). -/
def reportWord (r : RunReport) : Word :=
  at_ 0 r.number.toNat ||| at_ 16 (RunStatus.code r.status) ||| at_ 20 r.published ||| at_ 25 r.vacant

def retireWord (r : RetireReport) : Word :=
  at_ 0 r.index.val ||| at_ 8 r.inst.toNat ||| at_ 16 (DrainOutcome.code r.outcome)

/-- What the word at an offset of the register window reads as (11.1). -/
def wordAt (s : State) (o : Nat) : Word :=
  if o = 0x000 then idWord s
  else if o = 0x004 then at_ 0 s.events.cause.code
  else if o = 0x00C then statusWord s.cmd
  else if 0x010 ≤ o ∧ o ≤ 0x02C then s.cmd.operands.toList.getD ((o - 0x010) / 4) 0
  else if 0x030 ≤ o ∧ o ≤ 0x04C then s.cmd.results.toList.getD ((o - 0x030) / 4) 0
  else if o = 0x050 then s.events.pending.setWidth 32
  else if o = 0x054 then s.events.enabled.setWidth 32
  else if o = 0x058 then (irqSummary s).setWidth 32
  else if 0x060 ≤ o ∧ o ≤ 0x06C then (faultWords s.events).getD ((o - 0x060) / 4) 0
  else if o = 0x070 then reportWord s.engine.passReport
  else if o = 0x074 then s.engine.passReport.skipped
  else if o = 0x078 then reportWord s.engine.urgentReport
  else if o = 0x07C then s.engine.urgentReport.skipped
  else if o = 0x080 then retireWord s.events.retireReport
  else if o = 0x084 then at_ 0 s.free
  else if o = 0x088 then at_ 0 s.engine.state.code
  else 0

/-- A read at a management address: the word as it stands, changing nothing (R177, R179); the part gives
no answer while it is held in reset (R176). -/
def registerRead (s : State) (a : Word) : Option Word :=
  if s.inReset.isSome then none else some (wordAt s (windowOffset a))

end Sys2Proof.Machine
end

