-- ==== Sys2Proof/Machine/Dispatch.lean ====
section
/-! DEFINITION. One arm per command: the meaning that exec gives it. -/

namespace Sys2Proof.Machine

def exec (i : Instr) (s : State) : Host.Outcome State Fault Refusal :=
  match i with
  | .openWindow cnt => Sys2Proof.Machine.execOpen cnt s
  | .openView cnt => Sys2Proof.Machine.execView cnt s
  | .modify cnt => Sys2Proof.Machine.execModify cnt s
  | .retire cnt => Sys2Proof.Machine.execRetire cnt s
  | .query cnt => Sys2Proof.Machine.execQuery cnt s
  | .lookup cnt => Sys2Proof.Machine.execLookup cnt s
  | .group cnt => Sys2Proof.Machine.execGroup cnt s
  | .collect cnt => Sys2Proof.Machine.execCollect cnt s
  | .guardSet cnt => Sys2Proof.Machine.execGuard cnt s
  | .unguard cnt => Sys2Proof.Machine.execUnguard cnt s
  | .guardq cnt => Sys2Proof.Machine.execGuardq cnt s
  | .seq cnt => Sys2Proof.Machine.execSeq cnt s
  | .useq cnt => Sys2Proof.Machine.execUseq cnt s
  | .engset cnt => Sys2Proof.Machine.execEngset cnt s
  | .start cnt => Sys2Proof.Machine.execStart cnt s
  | .urgent cnt => Sys2Proof.Machine.execUrgent cnt s
  | .stop cnt => Sys2Proof.Machine.execStop cnt s
  | .breakOne cnt => Sys2Proof.Machine.execBreakOne cnt s
  | .setLimit cnt => Sys2Proof.Machine.execSetLimit cnt s
  | .port cnt => Sys2Proof.Machine.execPort cnt s
  | .restart cnt => Sys2Proof.Machine.execRestart cnt s
  | .unknownCommand w => Sys2Proof.Machine.execUnknown w s
  | .commandWordIgnored w => Sys2Proof.Machine.execIgnored w s
  | .operandWrite n v => Sys2Proof.Machine.execOperandWrite n v s
  | .eventClear v => Sys2Proof.Machine.execEventClear v s
  | .eventEnableWrite v => Sys2Proof.Machine.execEventEnable v s
  | .faultClear v => Sys2Proof.Machine.execFaultClear v s
  | .registerWriteDiscarded a v => Sys2Proof.Machine.execDiscarded a v s
  | .trigREdge => Sys2Proof.Machine.execTrigR s
  | .trigUEdge => Sys2Proof.Machine.execTrigU s
  | .paceExpiry => Sys2Proof.Machine.execPace s
  | .holdTimerExpiry p => Sys2Proof.Machine.execHoldExpiry p s
  | .coldReset c => Sys2Proof.Machine.execColdReset c s
  | .coldResetEnd z p => Sys2Proof.Machine.execColdResetEnd z p s
  | .requesterAccess p c z a d => Sys2Proof.Machine.execRequester p c z a d s
  | .storeAccessDone e => Sys2Proof.Machine.execStoreDone e s
  | .mergingReadDone e t => Sys2Proof.Machine.execMergeDone e t s
  | .lineCopyReadDone e => Sys2Proof.Machine.execCopyRead e s
  | .lineBoundary e => Sys2Proof.Machine.execBoundary e s
  | .continuePublish => Sys2Proof.Machine.execContinue s

end Sys2Proof.Machine
end

