-- ==== Sys2Proof/Machine/Ticks.lean ====
section
/-! DEFINITION. One microsecond of the 1 MHz time base: the hold timers and the pace timer (R90, R125;
log 19). -/

namespace Sys2Proof.Machine

/-- A hold timer after one microsecond that does not bring it to 0: a running one counts down, and a
stopped one has stood stopped for one more (R123, R125). -/
def HoldTimer.tick : HoldTimer → HoldTimer
  | .running r => .running (r - 1)
  | .stopped r e => .stopped r (e + 1)

/-- The timer reaches 0 in this microsecond, and expires in the same event, so that no release finds it running
at 0 (R125, R126; the model's choice, log 38). -/
def HoldTimer.due : HoldTimer → Bool
  | .running r => decide (r ≤ 1)
  | .stopped _ _ => false

/-- One microsecond at one lock entry: the expiry of its timer, or the count (R125; log 38). -/
def tickLock (p : PortId) (s : State) : State :=
  match s.lock p with
  | none => s
  | some l =>
    match l.timer with
    | none => s
    | some t => if t.due then breakLock p s else s.setLock p (some { l with timer := some t.tick })

/-- One microsecond at the four lock entries, P0 first (log 19). -/
def tickLocks (s : State) : State := tickLock 3 (tickLock 2 (tickLock 1 (tickLock 0 s)))

/-- One microsecond at the pace timer: its expiry, or the count (R90). -/
def tickPace (s : State) : State :=
  match s.engine.paceTimer with
  | none => s
  | some t =>
    if t ≤ 1 then paceExpires s else modEngine (fun e => { e with paceTimer := some (t - 1) }) s

/-- One microsecond of the part; none passes for it while it is held in reset (R176). -/
def tick (s : State) : State := if s.inReset.isSome then s else tickPace (tickLocks s)

end Sys2Proof.Machine
end

