-- ==== Sys2Proof/Machine/Step.lean ====
section
/-! DEFINITION. One step: the command at the front of the queue, or a microsecond when none waits. -/

namespace Sys2Proof.Machine

/-- Take the command at the front of the queue and carry it out on the state with the queue's rest.  On
an empty queue one microsecond passes (log 19). -/
def step (s : State) : Host.Outcome State Fault Refusal :=
  match s.pending with
  | [] => .next (tick s)
  | c :: q => exec c { s with pending := q }

/-- The state with the command that a word spells at the front of its queue; no row of the table gives
bits, so no word spells one (log 24). -/
def State.withFetchWord (s : State) (nbits w : Nat) : State :=
  match decodeTableWord nbits w with
  | none => s
  | some c => { s with pending := c :: s.pending }

end Sys2Proof.Machine
end

