-- ==== Sys2Proof/Safety.lean ====
section
/-! DEFINITION. The invariants of the part, one for each law that the spec prints in bold or gives as what a
table holds, and the words in which the statements speak of a state. -/

namespace Sys2Proof.Machine

/-! ### Words of the statements -/

/-- The part takes command words: it is not held in reset and the command unit is IDLE (R165, R176). -/
def State.accepts (s : State) : Prop := s.inReset = none ∧ s.cmd.busy = false

/-- The command unit when a command has been accepted and has completed in one event (R165, R167). -/
def CommandUnit.completed (u : CommandUnit) (code cnt : BitVec 8) (st : Status) (res : List Word) :
    CommandUnit :=
  { word := (cnt ++ code).setWidth 32, operands := u.operands, results := resultWords res, busy := false,
    status := st, code := code, ignored := false }

/-- The command unit when a command has been accepted and has not completed (R165). -/
def CommandUnit.accepted (u : CommandUnit) (code cnt : BitVec 8) : CommandUnit :=
  { word := (cnt ++ code).setWidth 32, operands := u.operands, results := u.results, busy := true,
    status := .busy, code := code, ignored := false }

/-- The state after a command that completed with this code and these results and changed nothing else:
a refusal, or a query. -/
def State.completed (s : State) (code cnt : BitVec 8) (st : Status) (res : List Word) : State :=
  { s with cmd := s.cmd.completed code cnt st res }

/-- A port whose access has been answered (R23). -/
def Port.answered (x : Port) (r : Resp) (bytes : List Byte) : Port :=
  { x with access := none, response := some { code := r, bytes := bytes } }

/-- The event unit after a fault record has been offered and an event raised (R36, R74, R171). -/
def EventUnit.faulted (e : EventUnit) (x : Event) (f : FaultRecord) : EventUnit :=
  { e with
    pending := e.pending ||| x.mask,
    capture := some (e.capture.getD f),
    more := e.more || e.capture.isSome }

/-- The event unit with an event raised (R169). -/
def EventUnit.raised (e : EventUnit) (x : Event) : EventUnit := { e with pending := e.pending ||| x.mask }

/-- The publish record of the publish at the unit, in every state but READY (R62). -/
def PubUnit.record? : PubUnit → Option PublishRecord
  | .ready => none
  | .reading r _ => some r
  | .writing r _ _ => some r
  | .paused r => some r
  | .orphanReading _ _ _ => none
  | .orphanWriting _ _ => none

/-- The marks held by the sets of a slot's window (R45). -/
def Slot.marks (x : Slot) : Nat :=
  match x.win with
  | none => 0
  | some w => w.marks

/-- The marks held by all D, W and C sets (R45). -/
def State.marksHeld (s : State) : Nat := ((List.finRange 32).map fun i => (s.slot i).marks).sum

/-- The requester ranges of two windows share a byte (R15). -/
def rangesMeet (w v : Window) : Bool := sharesByte w.base.toNat w.size v.base.toNat v.size

/-- No request waits at the arbiter: no access stands in the stage waiting, and the publish unit has no
store access requested (R40). -/
def State.nothingWaits (s : State) : Prop :=
  (∀ p, s.waitingAccess p = none) ∧ s.unitWaiting = false

/-- The access of a port is past its grant: its merging read or its store access is in flight (R23). -/
def State.atStore (s : State) (p : PortId) : Bool :=
  match (s.port p).access with
  | none => false
  | some i =>
    match i.stage with
    | .waiting => false
    | .merging _ => true
    | .storing _ => true

/-- The rows that are a write to the command word (R165). -/
def isCommandWordRow : Instr → Bool
  | .openWindow _ | .openView _ | .modify _ | .retire _ | .query _ | .lookup _ | .group _
  | .collect _ | .guardSet _ | .unguard _ | .guardq _ | .seq _ | .useq _ | .engset _ | .start _
  | .urgent _ | .stop _ | .breakOne _ | .setLimit _ | .port _ | .restart _
  | .unknownCommand _ | .commandWordIgnored _ => true
  | .operandWrite _ _ | .eventClear _ | .eventEnableWrite _ | .faultClear _
  | .registerWriteDiscarded _ _ | .trigREdge | .trigUEdge | .paceExpiry | .holdTimerExpiry _
  | .coldReset _ | .coldResetEnd _ _ | .requesterAccess _ _ _ _ _ | .storeAccessDone _
  | .mergingReadDone _ _ | .lineCopyReadDone _ | .lineBoundary _ | .continuePublish => false

/-- The rows that act on a part held in reset (R173, R176). -/
def isResetRow : Instr → Bool
  | .coldReset _ | .coldResetEnd _ _ => true
  | .openWindow _ | .openView _ | .modify _ | .retire _ | .query _ | .lookup _ | .group _
  | .collect _ | .guardSet _ | .unguard _ | .guardq _ | .seq _ | .useq _ | .engset _ | .start _
  | .urgent _ | .stop _ | .breakOne _ | .setLimit _ | .port _ | .restart _
  | .unknownCommand _ | .commandWordIgnored _ | .operandWrite _ _ | .eventClear _
  | .eventEnableWrite _ | .faultClear _ | .registerWriteDiscarded _ _ | .trigREdge | .trigUEdge
  | .paceExpiry | .holdTimerExpiry _ | .requesterAccess _ _ _ _ _ | .storeAccessDone _
  | .mergingReadDone _ _ | .lineCopyReadDone _ | .lineBoundary _ | .continuePublish => false

/-- The values that every block takes from a cold reset, the straps apart (R19, R24, R43, R59, R82, R104,
R119, R135, R145, R168, R176). -/
structure ColdValues (t : State) : Prop where
  slots : ∀ i, t.slot i = { inst := 0, win := none }
  groups : t.groups = { g1 := false, g2 := false, g3 := false }
  accesses : ∀ p, (t.port p).access = none
  grant : t.grant = none
  pointer : t.pointer = 3
  free : t.free = 8192
  urgency : t.urgency = false
  pubUnit : t.pubUnit = .ready
  continues : t.continues = 0
  engineState : t.engine.state = .idle
  heldFrom : t.engine.heldFrom = none
  lists : t.engine.regularSeq = [] ∧ t.engine.urgentList = [] ∧ t.engine.drainQueue = []
  run : t.engine.run = none ∧ t.engine.working = none ∧ t.engine.regularPending = false ∧
    t.engine.cursor = 0 ∧ t.engine.passCounter = 0 ∧ t.engine.context = none ∧ t.engine.purpose = none
  urgentRun : t.engine.urgentRequested = false ∧ t.engine.urgentRun = none ∧ t.engine.urgentCounter = 0
  config : t.engine.config =
    { mode := .single, step := 1, autoUrgent := false, paceEnable := false, pacePeriod := 100,
      trigREnable := false, trigUEnable := false, urgeOn := 512, urgeOff := 2048 }
  paceTimer : t.engine.paceTimer = none
  reports : t.engine.passReport = .zero ∧ t.engine.urgentReport = .zero ∧ t.events.retireReport = .zero
  locks : ∀ p, t.lock p = none
  holdLimit : t.holdLimit = 1000
  guards : ∀ g, t.guard g = none
  command : t.cmd =
    { word := 0, operands := Vector.replicate 8 0, results := Vector.replicate 8 0, busy := false,
      status := .idle, code := 0, ignored := false }
  events : t.events.pending = 0 ∧ t.events.enabled = 0 ∧ t.events.capture = none ∧ t.events.more = false
  running : t.inReset = none

/-- The events after the response of an access: a fault record and ACCESS_FAULT when the response is a
fault of a class that is not FETCH (R36, R37). -/
def EventUnit.afterResponse (e : EventUnit) (p : PortId) (c : AccessClass) (a : Word) (r : Resp)
    (i : Option SlotId) : EventUnit :=
  if c = .fetch ∨ r = .ok ∨ r = .locked ∨ r = .lockHeld then e
  else e.faulted .accessFault (.access p c a r i)

/-- The state when an access has been answered: the response, the port free for its next access, and the
fault it may be; nothing else (R23, R36). -/
def State.answeredAt (s : State) (p : PortId) (c : AccessClass) (a : Word) (r : Resp)
    (i : Option SlotId) (bytes : List Byte) : State :=
  { s with
    ports := s.ports.set p ((s.port p).answered r bytes),
    events := s.events.afterResponse p c a r i }

/-- The state when an access stands at a stage of its course, its port having no response yet. -/
def State.accessAt (s : State) (p : PortId) (a : Access) (st : Stage) : State :=
  { s with
    ports := s.ports.set p
      { s.port p with access := some { acc := a, stage := st }, response := none } }

/-- The regular work that a trigger finds: none in progress, none pending, and the engine IDLE with
nothing of a higher order waiting (R92, R100). -/
structure State.quiet (s : State) : Prop where
  state : s.engine.state = .idle
  run : s.engine.run = none
  regularPending : s.engine.regularPending = false
  urgentRun : s.engine.urgentRun = none
  urgentRequested : s.engine.urgentRequested = false
  drainQueue : s.engine.drainQueue = []
  context : s.engine.context = none

/-- The window takes D into W and its publish begins with this line's read (R49, R63). -/
def State.publishing (s : State) (h : Handle) (w : Window) (p : Paired) (n : Nat) : State :=
  { s with
    slots := s.slots.set h.index
      { s.slot h.index with
        win := some { w with body := .paired { p with
          work := some { set := p.dirty, pos := 0 }, dirty := .lines [] } } },
    pubUnit := .reading { handle := h, idle := p.current.other, abandons := [], suspend := false } n }

/-- W merged back into D, with the marks that this frees (R50). -/
def State.merged (s : State) (h : Handle) (w : Window) (p : Paired) (k : Working) : State :=
  let free := s.free + (p.dirty.marks + k.set.marks - (p.dirty.union k.set).marks)
  { s with
    slots := s.slots.set h.index
      { s.slot h.index with
        win := some { w with body := .paired { p with dirty := p.dirty.union k.set, work := none } } },
    free := free,
    urgency := urgencyAfter s.engine.config.urgeOn s.engine.config.urgeOff free s.urgency }

/-- The window flipped into this bank: its generation one higher, W in the place of C, and C's marks free
(R51, R68). -/
def State.flipped (s : State) (h : Handle) (w : Window) (p : Paired) (k : Working) (bank : Bank) : State :=
  let free := s.free + p.carry.marks
  { s with
    slots := s.slots.set h.index
      { s.slot h.index with
        win := some { w with body := .paired { p with
          current := bank, gen := if p.gen = 65535 then 1 else p.gen + 1, carry := k.set, work := none } } },
    free := free,
    urgency := urgencyAfter s.engine.config.urgeOn s.engine.config.urgeOff free s.urgency }

/-- The report of a pass or an urgent run that ends ABORTED (R99, R111). -/
def WorkReport.aborted (v : WorkReport) : RunReport :=
  { number := v.number, status := some .aborted, published := v.published, skipped := v.skipped,
    vacant := v.vacant }

/-- The engine when a pass has ended ABORTED with this report because of a SEQ: a new pass at entry 0 of the
sequence, which over an empty one ends COMPLETE at its beginning, and in STEPPED none (R87, R94). -/
def Engine.passAgain (e : Engine) (ended : RunReport) : Engine :=
  let n := if e.passCounter = 65535 then 1 else e.passCounter + 1
  if e.config.mode = .stepped then
    { e with passReport := ended, working := none, run := none, cursor := 0, restartPass := false }
  else if e.regularSeq = [] then
    { e with
      passCounter := n,
      passReport := { number := n, status := some .complete, published := 0, skipped := 0, vacant := 0 },
      working := none, run := none, restartPass := false }
  else
    { e with
      passCounter := n, passReport := ended,
      working := some { number := n, published := 0, skipped := 0, vacant := 0, copied := false },
      run := some { pos := 0, remaining := none }, restartPass := false }

/-- Handle field `k` of the operand words: two a word, the lower in bits 15:0 (11.4). -/
def oprField (s : State) (k : Nat) : BitVec 16 :=
  field (s.cmd.operands.toList.getD (k / 2) 0) (16 * (k % 2)) 16

/-- The lowest slot that is FREE (R6). -/
def State.lowestFree (s : State) (i : SlotId) : Prop :=
  (s.slot i).win = none ∧ ∀ j, j < i → (s.slot j).win ≠ none

/-! ### Invariants -/

/-- The store keeps its canonical form. -/
def StoreCanonical (s : State) : Prop := Memory.wf s.store = true

/-- The free mark count plus the marks held equals 8192 (R45). -/
def MarksConserved (s : State) : Prop := s.free + s.marksHeld = Config.poolSize

/-- The requester ranges of filled slots lie below 4 GiB and are pairwise disjoint (R15). -/
def RangesDisjoint (s : State) : Prop :=
  (∀ i w, (s.slot i).win = some w → rangeAllowed w.base w.pages = true) ∧
    ∀ i j w v, i ≠ j → (s.slot i).win = some w → (s.slot j).win = some v → rangesMeet w v = false

/-- The store regions of filled slots lie within the store and are pairwise disjoint (R16). -/
def RegionsDisjoint (s : State) : Prop :=
  (∀ i w, (s.slot i).win = some w →
    (∀ a ∈ w.regions, s.inStore a w.size = true) ∧ regionsDisjoint w.size w.regions = true) ∧
    ∀ i j w v, i ≠ j → (s.slot i).win = some w → (s.slot j).win = some v → regionsMeet w v = false

/-- Every SET guard names a filled window that is not a VIEW, by its instance, on a word of it, with its
fields as GUARD checks them; no two SET guards have the same window and word offset (R136). -/
def GuardsSound (s : State) : Prop :=
  (∀ i g, s.guard i = some g →
    (∃ w, s.window? g.window = some w ∧ w.kind ≠ .view ∧ g.offset < w.size) ∧
      g.offset % 4 = 0 ∧ g.mask ≠ 0 ∧ rangeOrdered g.sign g.low g.high = true) ∧
    ∀ i j g k, i ≠ j → s.guard i = some g → s.guard j = some k →
      ¬(g.window = k.window ∧ g.offset = k.offset)

/-- The drain queue holds each DRAINING window once and no other, and drain attempts are 0 or 1 (R115,
R117). -/
def DrainQueueSound (s : State) : Prop :=
  s.engine.drainQueue.Nodup ∧
    (∀ h, h ∈ s.engine.drainQueue ↔ ∃ w, s.window? h = some w ∧ w.draining = true) ∧
    ∀ h w p, s.paired? h = some (w, p) → p.drain.getD 0 ≤ 1

/-- Each window is locked by at most one port, and a locked window is filled, ACTIVE and not a VIEW (R5,
R120). -/
def LocksSound (s : State) : Prop :=
  (∀ p l, s.lock p = some l →
    ∃ w, s.window? l.window = some w ∧ w.draining = false ∧ w.kind ≠ .view) ∧
    ∀ p q l m, s.lock p = some l → s.lock q = some m → l.window = m.window → p = q

/-- The drain queue and the lock table together: each keeps the other's law. -/
def DrainsAndLocksSound (s : State) : Prop := DrainQueueSound s ∧ LocksSound s

/-- The window of the publish at the unit is filled and PAIRED, and the bank fixed at its start is the one
that is not current, so that no line copy writes a current bank (R63, R70). -/
def IdleBankSound (s : State) : Prop :=
  ∀ r, s.pubUnit.record? = some r →
    ∃ w p, s.paired? r.handle = some (w, p) ∧ r.idle = p.current.other

/-- The slot holds a VIEW of this source (R17). -/
def Slot.views (h : Handle) (x : Slot) : Bool :=
  match x.win with
  | none => false
  | some w => w.body == .view h

/-- How many views name a source (R17). -/
def State.viewsOf (s : State) (h : Handle) : Nat :=
  ((List.finRange 32).filter fun i => (s.slot i).views h).length

/-- Every VIEW has an empty write mask and an ACTIVE PAIRED source, every view count equals the number of
views naming its window, and a window that a waiting RETIRE is to free at its line boundary has none, the
command unit being BUSY meanwhile (R3, R17, R156). -/
def ViewsSound (s : State) : Prop :=
  (∀ i w src, (s.slot i).win = some w → w.body = .view src →
    w.writeMask = 0 ∧ ∃ v p, s.paired? src = some (v, p) ∧ p.drain = none) ∧
    (∀ h w p, s.paired? h = some (w, p) → p.views = s.viewsOf h) ∧
    ∀ r, s.pubUnit.record? = some r → AbandonCause.retired ∈ r.abandons →
      s.cmd.busy = true ∧ ∀ w p, s.paired? r.handle = some (w, p) → p.views = 0

/-- The handle matches a PAIRED window that has a working set (R2, R75). -/
def State.hasWork (s : State) (h : Handle) : Prop := ∃ w p, s.paired? h = some (w, p) ∧ p.work ≠ none

/-- The engine's account of the publish at the unit: its purpose, the state that goes with it, HELD exactly
while the unit is PAUSED, an abandon asked for in STOPPING, and a suspension asked of a regular publish only
(R84, R85, R102, R110, R130). -/
def PublishSound (s : State) (r : PublishRecord) : Prop :=
  (s.engine.state = .held ↔ s.pubUnit = .paused r) ∧
    (s.engine.state = .stopping → r.abandons ≠ []) ∧
    match s.engine.purpose with
    | none => False
    | some .regular =>
      s.engine.context = none ∧ s.engine.urgentRun = none ∧
        (s.engine.state = .run ∨ s.engine.state = .stopping ∨
          s.engine.state = .held ∧ s.engine.heldFrom = some .run)
    | some .urgent =>
      r.suspend = false ∧ s.engine.urgentRun ≠ none ∧
        (s.engine.state = .urgent ∨ s.engine.state = .stopping ∨
          s.engine.state = .held ∧ s.engine.heldFrom = some .urgent)
    | some .drain =>
      r.suspend = false ∧ (s.engine.state = .drain ∨ s.engine.state = .stopping) ∧
        ∃ w p, s.paired? r.handle = some (w, p) ∧ p.drain ≠ none

/-- Outside a cold reset, a working set belongs to the publish at the unit or to the suspended context,
WAITING; an engine IDLE has neither; and the engine accounts for the publish at the unit (R75). -/
def WorkingSetsSound (s : State) : Prop :=
  s.inReset = none →
    (∀ h, s.hasWork h →
      (∃ r, s.pubUnit.record? = some r ∧ r.handle = h) ∨
        ∃ c, s.engine.context = some c ∧ c.handle = h ∧ c.outcome = .waiting) ∧
    (s.engine.state = .idle → s.pubUnit.record? = none ∧ s.engine.context = none) ∧
    (s.pubUnit.record? = none → s.engine.purpose = none) ∧
    ∀ r, s.pubUnit.record? = some r → PublishSound s r

/-- The line is in the copy set W ∪ C: every line of the window when either is WHOLE (R63). -/
def inCopySet (w : Window) (work carry : LineSet) (n : Nat) : Prop :=
  match work, carry with
  | .lines x, .lines y => n ∈ x ∨ n ∈ y
  | .lines _, .whole => n < w.lineCount
  | .whole, _ => n < w.lineCount

/-- The store port is held by no one, and then nothing waits; or by a port whose access is past its grant;
or by the publish unit, which has a store access in flight.  No other port's access is past its grant
(R40). -/
def GrantSound (s : State) : Prop :=
  (s.grant = none → s.nothingWaits) ∧
    (s.grant = some .engine → s.pubUnit.wantsStore = true) ∧
    ∀ p, s.atStore p = true ↔ s.grant = some (.port p)

end Sys2Proof.Machine
end

