-- ==== Sys2Proof/Certificates/Slice0/Obligations.lean ====
section
/-! DEFINITION. The statements for the provers, chapter by chapter of spec/, with the invariants at the
end. -/

open Sys2Proof Sys2Proof.Machine

/-! ### The block, its clock and its resets -/

/-- A step takes the command at the front of the queue and carries it out on the state with the queue's
rest. -/
def Obligations.StepRunsTheFrontCommand : Prop :=
  ∀ (c : Instr) (q : List Instr) (s : State), s.pending = c :: q →
    step s = exec c { s with pending := q }

/-- On an empty queue a microsecond passes (the model's choice, log 19): every running hold timer counts down
and breaks its lock in the event in which it reaches 0 (log 38), every stopped one counts the time it has stood
(R123, R125), and then the pace timer, if it runs, counts down to its expiry (R90). -/
def Obligations.EmptyQueueCountsAMicrosecond : Prop :=
  ∀ s : State, s.pending = [] → s.inReset = none →
    ∃ u : State,
      (∀ p, u.lock p =
        match s.lock p with
        | none => none
        | some l =>
          match l.timer with
          | none => some l
          | some (.running r) =>
            if r ≤ 1 then none else some { l with timer := some (.running (r - 1)) }
          | some (.stopped r e) => some { l with timer := some (.stopped r (e + 1)) }) ∧
      (∀ p l r, s.lock p = some l → l.timer = some (.running r) → r ≤ 1 →
        u.isPending .lockBroken = true) ∧
      u = { s with locks := u.locks, continues := u.continues,
                   events := { s.events with pending := u.events.pending } } ∧
      ((∀ p, s.lock p = none) → u = s) ∧
      (s.engine.paceTimer = none → step s = .next u) ∧
      ∀ n, s.engine.paceTimer = some n →
        (2 ≤ n → step s = .next { u with engine := { s.engine with paceTimer := some (n - 1) } }) ∧
        (n ≤ 1 → step s = exec .paceExpiry u)

/-- The part right after the cold reset that follows the application of power has the cold values of every
chapter, the reset cause POWER_ON, IRQ low and no waiting command. -/
def Obligations.ResetLeavesTheColdValues : Prop :=
  ColdValues State.reset ∧ State.reset.events.cause = .powerOn ∧ irq State.reset = false ∧
    State.reset.pending = []

/-- A cold reset holds the part in reset: accesses, grant and publish end without an answer, IRQ is low and
no management access is answered; a store with no write in flight is not changed (R24, R43, R82, R176).  Three
clauses are the model's choices: the tables keep what they held until the reset ends (log 28), POWER_ON stays
the cause of a reset that the pin overlaps (log 31), and while the part is held no row but the two of the cold
reset has an effect (log 23). -/
def Obligations.ColdResetHoldsThePart : Prop :=
  (∀ (c : ColdCause) (s : State), ∃ t, exec (.coldReset c) s = .next t ∧
     t.inReset = some (if s.inReset = some .powerOn then .powerOn else c) ∧
     (∀ p, (t.port p).access = none ∧ (t.port p).response = none ∧ (t.port p).state = (s.port p).state) ∧
     t.grant = none ∧ t.pubUnit = .ready ∧ irq t = false ∧ (∀ a, registerRead t a = none) ∧
     ((∀ p a x, s.grant = some (.port p) → (s.port p).access = some { acc := a, stage := .storing (some x) } →
         classReads a.cls = true) →
       (s.grant = some .engine → (∀ r n bs, s.pubUnit ≠ .writing r n bs) ∧
         ∀ d bs, s.pubUnit ≠ .orphanWriting d bs) → t.store = s.store) ∧
     t.slots = s.slots ∧ t.engine = s.engine ∧ t.cmd = s.cmd ∧ t.events = s.events) ∧
  ∀ (c : Instr) (s : State), s.inReset ≠ none → isResetRow c = false → exec c s = .next s

/-- At the end of a cold reset every block has its cold values, with the store size and the port states of
the sampled straps and the reset cause of what held the part; store contents are not changed (R19, R24,
R173, R176). -/
def Obligations.ColdResetEndGivesTheColdValues : Prop :=
  ∀ (size : BitVec 2) (ports : BitVec 4) (c : ColdCause) (s : State), s.inReset = some c →
    ∃ t, exec (.coldResetEnd size ports) s = .next t ∧ ColdValues t ∧
      t.storeSize = 67108864 * 2 ^ size.toNat ∧
      (∀ p, (t.port p).state = if ports.getLsbD p.val then .active else .standby) ∧
      t.events.cause = (match c with | .powerOn => .powerOn | .pin => .pin) ∧
      t.store = s.store ∧ irq t = false

/-- RESTART takes each block to its restart values in the event of its acceptance (R20, R43, R60, R83,
R105, R119, R135, R145, R174). -/
def Obligations.RestartGivesTheRestartValues : Prop :=
  ∀ (cnt : BitVec 8) (s : State), s.accepts → ∃ t, exec (.restart cnt) s = .next t ∧
    (∀ i, t.slot i =
      match (s.slot i).win with
      | none => s.slot i
      | some w =>
        if w.draining then { s.slot i with win := none }
        else { s.slot i with win := some { w with body :=
          match w.body with
          | .plain l => .plain l
          | .tracked l _ => .tracked l .whole
          | .paired p => .paired { p with dirty := .whole, work := none, carry := .whole }
          | .view h => .view h } }) ∧
    (∀ i, t.guard i =
      match s.guard i with
      | none => none
      | some g =>
        match s.window? g.window with
        | none => some g
        | some w => if w.draining then none else some g) ∧
    t.groups = { g1 := false, g2 := false, g3 := false } ∧ t.free = 8192 ∧ t.urgency = false ∧
    (∀ p, t.lock p = none) ∧ t.holdLimit = s.holdLimit ∧
    t.ports = s.ports ∧ t.grant = s.grant ∧ t.pointer = s.pointer ∧
    t.engine.state = .idle ∧ t.engine.heldFrom = none ∧ t.engine.run = none ∧
    t.engine.working = none ∧ t.engine.regularPending = false ∧ t.engine.cursor = 0 ∧
    t.engine.passCounter = 0 ∧ t.engine.context = none ∧ t.engine.purpose = none ∧
    t.engine.drainQueue = [] ∧ t.engine.urgentRequested = false ∧ t.engine.urgentRun = none ∧
    t.engine.urgentCounter = 0 ∧ t.engine.passReport = .zero ∧ t.engine.urgentReport = .zero ∧
    t.engine.regularSeq = s.engine.regularSeq ∧ t.engine.urgentList = s.engine.urgentList ∧
    t.engine.config = s.engine.config ∧
    t.engine.paceTimer =
      (if s.engine.config.paceEnable then some (s.engine.config.pacePeriod * 100) else none) ∧
    t.events.pending = 0 ∧ t.events.enabled = 0 ∧ t.events.capture = none ∧ t.events.more = false ∧
    t.events.retireReport = .zero ∧ t.events.cause = .restart ∧ irq t = false ∧
    t.storeStrap = s.storeStrap ∧ t.store = s.store ∧ t.cmd.operands = s.cmd.operands

/-- RESTART completes with DONE in its event when no line copy is in flight, the unit READY or PAUSED, and
otherwise stays BUSY until the copy it left has ended: its write is made after its read, and the end of the
write, or of a read with an error, which no write follows, leaves the unit READY and completes RESTART; a write
that ends with an error leaves the bytes it covered unknown (the model's free values, log 10), and neither
error is reported (R83, R175). -/
def Obligations.RestartEndsWithTheLineCopy : Prop :=
  (∀ (cnt : BitVec 8) (s : State), s.accepts → s.pubUnit = .ready ∨ (∃ r, s.pubUnit = .paused r) →
    ∃ t, exec (.restart cnt) s = .next t ∧ t.pubUnit = .ready ∧ t.cmd.busy = false ∧
      t.cmd.status = .done ∧ t.cmd.code = codeRestart ∧ t.cmd.results = Vector.replicate 8 0) ∧
  (∀ (cnt : BitVec 8) (s : State) (r : PublishRecord) (n : Nat) (w : Window) (p : Paired),
    s.accepts → s.pubUnit = .reading r n → s.paired? r.handle = some (w, p) →
    ∃ t, exec (.restart cnt) s = .next t ∧ t.cmd.busy = true ∧ t.cmd.status = .busy ∧
      t.pubUnit = .orphanReading (p.live.toNat + n * w.lineSize.bytes)
        (p.bankOffset r.idle + n * w.lineSize.bytes) w.lineSize.bytes) ∧
  (∀ (cnt : BitVec 8) (s : State) (r : PublishRecord) (n : Nat) (bs : List Byte) (w : Window)
    (p : Paired), s.accepts → s.pubUnit = .writing r n bs → s.paired? r.handle = some (w, p) →
    ∃ t, exec (.restart cnt) s = .next t ∧ t.cmd.busy = true ∧ t.cmd.status = .busy ∧
      t.pubUnit = .orphanWriting (p.bankOffset r.idle + n * w.lineSize.bytes) bs) ∧
  (∀ (s : State) (src dst len : Nat), s.inReset = none → s.grant = some .engine →
    s.pubUnit = .orphanReading src dst len → s.inStore src len = true →
    exec (.lineCopyReadDone false) s =
      .next (arbitrate { s with
        grant := none, pubUnit := .orphanWriting dst (Memory.read s.store src len) }) ∧
    (s.quiet →
      exec (.lineCopyReadDone true) s =
        .next (arbitrate { s with
          grant := none, pubUnit := .ready,
          cmd := { s.cmd with results := Vector.replicate 8 0, status := .done, busy := false } }))) ∧
  ∀ (s : State) (dst : Nat) (bs : List Byte) (early : Bool), s.inReset = none → s.grant = some .engine →
    s.pubUnit = .orphanWriting dst bs → s.inStore dst bs.length = true → s.quiet →
    exec (.lineBoundary ⟨false, early⟩) s =
      .next (arbitrate { s with
        grant := none, pubUnit := .ready, store := Memory.write s.store dst bs,
        cmd := { s.cmd with results := Vector.replicate 8 0, status := .done, busy := false } }) ∧
    exec (.lineBoundary ⟨true, early⟩) s =
      .next (arbitrate { s with
        grant := none, pubUnit := .ready,
        store := Memory.write s.store dst (unstatedBytes s.fresh dst bs.length), fresh := s.fresh + 1,
        cmd := { s.cmd with results := Vector.replicate 8 0, status := .done, busy := false } })

/-! ### The command unit, the events and the register window (ch. 10, 11) -/

/-- A command word written while the unit is BUSY is discarded and sets IGNORED, whatever its row (that of
COMMAND_WORD_IGNORED among them), and changes nothing else; a code that names no command is accepted and
completes at once with UNKNOWN, changes nothing but the command unit, and leaves its result words 0 (R165); a
write to a read-only or unused word is discarded without a trace; the words CMD and FCLR and every unused word
read 0, and the register window repeats every 256 bytes (R177).  The read-only words read as the layouts of
chapter 11 give, each field in its place with the codes of its table and 0 in every other bit: ID, CAUSE, the
command status, the result words, the event pending set, the fault capture, the pass, urgent and retire reports,
the free count and the engine state (R164, R171, R177); an empty capture reads 0, and a record without a window
index reads 0 in the index bits of FLT3 (the model's choice, log 36). -/
def Obligations.WritesThatNameNoWorkDoNone : Prop :=
  (∀ (c : Instr) (s : State), isCommandWordRow c = true → s.inReset = none → s.cmd.busy = true →
     exec c s = .next { s with cmd := { s.cmd with ignored := true } }) ∧
  (∀ (w : Word) (s : State), s.accepts → codeNamesCommand (cmdCode w) = false →
     exec (.unknownCommand w) s = .next (s.completed (cmdCode w) (cmdCount w) .unknown [])) ∧
  (∀ (a v : Word) (s : State), offsetWritable (windowOffset a) = false →
    exec (.registerWriteDiscarded a v) s = .next s) ∧
  (∀ (a : Word) (s : State), s.inReset = none →
    windowOffset a = 0x008 ∨ windowOffset a = 0x05C ∨ 0x08C ≤ windowOffset a →
    registerRead s a = some 0) ∧
  (∀ (a : Word) (s : State), registerRead s (a + 256#32) = registerRead s a) ∧
  (∀ s : State, s.inReset = none →
    registerRead s 0x000#32 = some (at_ 0 0x3240 ||| at_ 16 0x01 ||| at_ 24 s.storeStrap.toNat) ∧
    registerRead s 0x004#32 =
      some (match s.events.cause with | .powerOn => 1 | .pin => 2 | .restart => 3) ∧
    registerRead s 0x00C#32 =
      some (at_ 0 s.cmd.status.code ||| at_ 8 s.cmd.code.toNat ||| at_ 16 s.cmd.ignored.toNat) ∧
    (∀ k : Fin 8, registerRead s (BitVec.ofNat 32 (0x030 + 4 * k.val)) = some s.cmd.results[k]) ∧
    registerRead s 0x050#32 = some (s.events.pending.setWidth 32) ∧
    (s.events.capture = none →
      ∀ k : Fin 4, registerRead s (BitVec.ofNat 32 (0x060 + 4 * k.val)) = some 0) ∧
    (∀ p c a r i, s.events.capture = some (.access p c a r i) →
      registerRead s 0x060#32 = some (at_ 0 1 ||| at_ 1 s.events.more.toNat) ∧
      registerRead s 0x064#32 = some (at_ 0 p.val ||| at_ 4 (classCode c) ||| at_ 8 r.code) ∧
      registerRead s 0x068#32 = some a ∧
      registerRead s 0x06C#32 = some (match i with | none => 0 | some x => at_ 0 x.val ||| at_ 8 1)) ∧
    (∀ a wr i, s.events.capture = some (.lineCopy a wr i) →
      registerRead s 0x060#32 = some (at_ 0 1 ||| at_ 1 s.events.more.toNat) ∧
      registerRead s 0x064#32 = some (at_ 0 4 ||| at_ 4 6 ||| at_ 8 (if wr then 2 else 1)) ∧
      registerRead s 0x068#32 = some a ∧
      registerRead s 0x06C#32 = some (at_ 0 i.val ||| at_ 8 1)) ∧
    (∀ x : RunReport, (s.engine.passReport = x →
        registerRead s 0x070#32 =
          some (at_ 0 x.number.toNat ||| at_ 16 (RunStatus.code x.status) ||| at_ 20 x.published |||
            at_ 25 x.vacant) ∧
        registerRead s 0x074#32 = some x.skipped) ∧
      (s.engine.urgentReport = x →
        registerRead s 0x078#32 =
          some (at_ 0 x.number.toNat ||| at_ 16 (RunStatus.code x.status) ||| at_ 20 x.published |||
            at_ 25 x.vacant) ∧
        registerRead s 0x07C#32 = some x.skipped)) ∧
    registerRead s 0x080#32 =
      some (at_ 0 s.events.retireReport.index.val ||| at_ 8 s.events.retireReport.inst.toNat |||
        at_ 16 (match s.events.retireReport.outcome with
          | none => 0 | some .clean => 1 | some .flushFailed => 2)) ∧
    registerRead s 0x084#32 = some (BitVec.ofNat 32 s.free) ∧
    registerRead s 0x088#32 =
      some (match s.engine.state with
        | .idle => 0 | .run => 1 | .urgent => 2 | .drain => 3 | .held => 4 | .stopping => 5)) ∧
  (classCode .read = 1 ∧ classCode .write = 3 ∧ classCode .lockRead = 4 ∧ classCode .releaseWrite = 5) ∧
  (Resp.code .portOff = 1 ∧ Resp.code .miss = 2 ∧ Resp.code .denied = 3 ∧ Resp.code .retiring = 4 ∧
    Resp.code .unpublished = 5 ∧ Resp.code .locked = 6 ∧ Resp.code .lockHeld = 7 ∧
    Resp.code .lockLost = 8 ∧ Resp.code .guard = 9 ∧ Resp.code .storeError = 10 ∧ Resp.code .ok = 0) ∧
  (RunStatus.code none = 0 ∧ RunStatus.code (some .complete) = 1 ∧ RunStatus.code (some .partly) = 2 ∧
    RunStatus.code (some .aborted) = 3) ∧
  (Status.code .idle = 0x00 ∧ Status.code .busy = 0x01 ∧ Status.code .done = 0x10 ∧
    Status.code .accepted = 0x11 ∧ Status.code .noSpace = 0x20 ∧ Status.code .badOperand = 0x21 ∧
    Status.code .notFound = 0x22 ∧ Status.code .wrongKind = 0x23 ∧ Status.code .retiring = 0x24 ∧
    Status.code .protected_ = 0x25 ∧ Status.code .overlap = 0x26 ∧ Status.code .storeOverlap = 0x27 ∧
    Status.code .locked = 0x28 ∧ Status.code .hasViews = 0x29 ∧ Status.code .miss = 0x2A ∧
    Status.code .duplicate = 0x2B ∧ Status.code .engineBusy = 0x2C ∧ Status.code .badMode = 0x2D ∧
    Status.code .unknown = 0x2E)

/-- An operand word may be written while IDLE or BUSY: the write replaces that word whole and nothing else,
the word reads back as written, and the acceptance of a command leaves all eight (R166); a write to the event
pending set clears the events written 1 and leaves every other event and everything else (R169). -/
def Obligations.OperandAndEventWritesAct : Prop :=
  ((∀ (n : Fin 8) (v : Word) (s : State), s.inReset = none →
     ∃ t, exec (.operandWrite n v) s = .next t ∧
       t = { s with cmd := { s.cmd with operands := s.cmd.operands.set n v } } ∧
       registerRead t (BitVec.ofNat 32 (0x010 + 4 * n.val)) = some v ∧
       ∀ m, m ≠ n → opr t m = opr s m) ∧
   ∀ (code cnt : BitVec 8) (s : State), (acceptCommand code cnt s).cmd.operands = s.cmd.operands) ∧
  ∀ (v : Word) (s : State), s.inReset = none →
    ∃ t, exec (.eventClear v) s = .next t ∧
      t = { s with events := { s.events with pending := t.events.pending } } ∧
      ∀ e : Event, t.isPending e = (s.isPending e && !v.getLsbD e.bit)

/-- The event enable set is written whole and reads back as written; IRQ is high exactly while some event is
a member of both sets, which is what the read-only summary word shows; a write to the enable set clears no
event, an enable does not affect raising, and both resets empty the set (R170). -/
def Obligations.EnabledPendingEventsDriveIrq : Prop :=
  (∀ (v : Word) (s : State), s.inReset = none →
    ∃ t, exec (.eventEnableWrite v) s = .next t ∧
      t = { s with events := { s.events with enabled := v.setWidth 11 } } ∧
      registerRead t 0x054#32 = some ((v.setWidth 11).setWidth 32) ∧
      (∀ e : Event, t.events.enabled.getLsbD e.bit = v.getLsbD e.bit ∧ t.isPending e = s.isPending e)) ∧
  (∀ s : State, s.inReset = none →
    (irq s = true ↔ ∃ e : Event, s.isPending e = true ∧ s.events.enabled.getLsbD e.bit = true) ∧
    registerRead s 0x058#32 = some ((s.events.pending &&& s.events.enabled).setWidth 32) ∧
    (irq s = true ↔ registerRead s 0x058#32 ≠ some 0) ∧
    ∀ v, exec (.registerWriteDiscarded 0x058#32 v) s = .next s) ∧
  (∀ (e : Event) (s : State), (raise e s).isPending e = true ∧
    (raise e s).events.enabled = s.events.enabled) ∧
  (∀ (cnt : BitVec 8) (s : State), s.accepts →
    ∃ t, exec (.restart cnt) s = .next t ∧ t.events.enabled = 0 ∧ irq t = false) ∧
  ∀ (size : BitVec 2) (ports : BitVec 4) (s : State), s.inReset ≠ none →
    ∃ t, exec (.coldResetEnd size ports) s = .next t ∧ t.events.enabled = 0 ∧ irq t = false

/-- A write of 1 to FAULT_CLEAR empties the capture and clears MORE and nothing else; a write of 0 has no
effect; a fault offered before it is removed with the rest and one offered after it is kept, its event
pending in either order; both resets empty the capture and clear MORE (R172). -/
def Obligations.FaultClearEmptiesTheCapture : Prop :=
  (∀ s : State, s.inReset = none →
    exec (.faultClear 1) s =
      .next { s with events := { s.events with capture := none, more := false } } ∧
    exec (.faultClear 0) s = .next s) ∧
  (∀ (f : FaultRecord) (e : Event) (s : State), s.inReset = none →
    ∃ t, exec (.faultClear 1) (raise e (offerFault f s)) = .next t ∧
      t.events.capture = none ∧ t.events.more = false ∧ t.isPending e = true) ∧
  (∀ (f : FaultRecord) (e : Event) (s : State), s.inReset = none →
    ∃ t, exec (.faultClear 1) s = .next t ∧
      (raise e (offerFault f t)).events.capture = some f ∧
      (raise e (offerFault f t)).events.more = false ∧ (raise e (offerFault f t)).isPending e = true) ∧
  (∀ (cnt : BitVec 8) (s : State), s.accepts →
    ∃ t, exec (.restart cnt) s = .next t ∧ t.events.capture = none ∧ t.events.more = false) ∧
  ∀ (size : BitVec 2) (ports : BitVec 4) (s : State), s.inReset ≠ none →
    ∃ t, exec (.coldResetEnd size ports) s = .next t ∧ t.events.capture = none ∧ t.events.more = false

/-! ### Window commands (ch. 9) and COLLECT (ch. 3) -/

/-- GROUP sets the flag of the group it names, leaves the others, and returns the three flags as they stood;
a group that is not 1, 2 or 3, or a setting that names neither value, is BAD_OPERAND and changes nothing
(R148). -/
def Obligations.GroupSetsItsFlag : Prop :=
  ∀ (cnt : BitVec 8) (s : State), s.accepts →
    (∀ n v, flaggedGroup (field (opr s 0) 0 8) = some n → settingOf (field (opr s 1) 0 2) = some v →
      exec (.group cnt) s =
        .next { s with groups := s.groups.set n v,
                       cmd := s.cmd.completed codeGroup cnt .done [groupWord s.groups] } ∧
      n ≠ 0 ∧ (s.groups.set n v).isOpen n = v ∧
      ∀ m, m ≠ n → (s.groups.set n v).isOpen m = s.groups.isOpen m) ∧
    (((field (opr s 0) 0 8).toNat = 0 ∨ 3 < (field (opr s 0) 0 8).toNat ∨
        field (opr s 1) 0 2 = 0 ∨ field (opr s 1) 0 2 = 3) →
      exec (.group cnt) s = .next (s.completed codeGroup cnt .badOperand []))

/-- OPEN's operands describe a window exactly when none of them fails its check, and the window they describe
has the initial fields of its kind (R7, R149). -/
def Obligations.OpenOperandsGiveTheInitialRecord : Prop :=
  (∀ s : State, (openOperands s).isSome = true ↔
    (field (opr s 1) 0 4 = 1 ∨ field (opr s 1) 0 4 = 2 ∨ field (opr s 1) 0 4 = 3) ∧
    (opr s 2).toNat % 4096 = 0 ∧
    1 ≤ (field (opr s 3) 0 9).toNat ∧ (field (opr s 3) 0 9).toNat ≤ 256 ∧
    ((field (opr s 3) 16 9).toNat = 64 ∨ (field (opr s 3) 16 9).toNat = 128 ∨
      (field (opr s 3) 16 9).toNat = 256) ∧
    (opr s 2).toNat + (field (opr s 3) 0 9).toNat * 4096 - 1 ≤ 0xFFFFFFFF ∧
    field (opr s 1) 12 4 = 0 ∧ field (opr s 1) 20 4 = 0 ∧ (field (opr s 1) 4 4).toNat ≤ 3 ∧
    (opr s 4).toNat % 4096 = 0 ∧
    (field (opr s 1) 0 4 = 3 → (opr s 5).toNat % 4096 = 0 ∧ (opr s 6).toNat % 4096 = 0)) ∧
  ∀ (s : State) (w : Window), openOperands s = some w →
    w.base = opr s 2 ∧ w.pages = (field (opr s 3) 0 9).toNat ∧
    w.lineSize.bytes = (field (opr s 3) 16 9).toNat ∧
    w.readMask = field (opr s 1) 8 4 ∧ w.writeMask = field (opr s 1) 16 4 ∧
    w.group.val = (field (opr s 1) 4 4).toNat ∧
    (field (opr s 1) 0 4 = 1 → w.body = .plain (opr s 4)) ∧
    (field (opr s 1) 0 4 = 2 → w.body = .tracked (opr s 4) (.lines [])) ∧
    (field (opr s 1) 0 4 = 3 → w.body = .paired
      { live := opr s 4, bankA := opr s 5, bankB := opr s 6, current := .a, gen := 0, dirty := .whole,
        work := none, carry := .whole, views := 0, drain := none })

/-- OPEN makes its checks in order, and one that passes fills the lowest FREE slot, with the instance raised
by one, and returns its handle; nothing else changes (R6, R15, R16, R150). -/
def Obligations.OpenChecksInOrderAndFills : Prop :=
  ∀ (cnt : BitVec 8) (s : State), s.accepts →
    ((∀ i, (s.slot i).win ≠ none) →
      exec (.openWindow cnt) s = .next (s.completed codeOpen cnt .noSpace [])) ∧
    ∀ i, s.lowestFree i →
      (openOperands s = none →
        exec (.openWindow cnt) s = .next (s.completed codeOpen cnt .badOperand [])) ∧
      ∀ w, openOperands s = some w →
        (s.groups.isOpen w.group = false →
          exec (.openWindow cnt) s = .next (s.completed codeOpen cnt .protected_ [])) ∧
        (s.groups.isOpen w.group = true →
          ((∃ j v, (s.slot j).win = some v ∧ rangesMeet w v = true) →
            exec (.openWindow cnt) s = .next (s.completed codeOpen cnt .overlap [])) ∧
          ((∀ j v, (s.slot j).win = some v → rangesMeet w v = false) →
            ((∃ a ∈ w.regions, s.inStore a w.size = false) ∨ regionsDisjoint w.size w.regions = false ∨
                (∃ j v, (s.slot j).win = some v ∧ regionsMeet w v = true) →
              exec (.openWindow cnt) s = .next (s.completed codeOpen cnt .storeOverlap [])) ∧
            ((∀ a ∈ w.regions, s.inStore a w.size = true) → regionsDisjoint w.size w.regions = true →
                (∀ j v, (s.slot j).win = some v → regionsMeet w v = false) →
              exec (.openWindow cnt) s =
                .next { s with
                  slots := s.slots.set i { inst := (s.slot i).inst + 1, win := some w },
                  cmd := s.cmd.completed codeOpen cnt .done
                    [at_ 0 (i.val + 256 * ((s.slot i).inst + 1).toNat)] })))

/-- VIEW makes its checks in order, and one that passes fills the lowest FREE slot with a view of its
source's size and line size and raises the source's view count by one, in one event (R17, R151, R152). -/
def Obligations.ViewChecksInOrderAndFills : Prop :=
  (∀ s : State, ((viewOperands s).isSome = true ↔
     (opr s 2).toNat % 4096 = 0 ∧ field (opr s 1) 12 4 = 0 ∧ field (opr s 1) 16 8 = 0 ∧
       (field (opr s 1) 4 4).toNat ≤ 3) ∧
     ∀ readMask group, viewOperands s = some (readMask, group) →
       readMask = field (opr s 1) 8 4 ∧ group.val = (field (opr s 1) 4 4).toNat) ∧
  ∀ (cnt : BitVec 8) (s : State), s.accepts →
    ((∀ i, (s.slot i).win ≠ none) →
      exec (.openView cnt) s = .next (s.completed codeView cnt .noSpace [])) ∧
    ∀ i, s.lowestFree i →
      (viewOperands s = none →
        exec (.openView cnt) s = .next (s.completed codeView cnt .badOperand [])) ∧
      ∀ readMask group, viewOperands s = some (readMask, group) →
        (oprWindow s = none →
          exec (.openView cnt) s = .next (s.completed codeView cnt .notFound [])) ∧
        ∀ h w, oprWindow s = some (h, w) →
          (w.draining = true →
            exec (.openView cnt) s = .next (s.completed codeView cnt .retiring [])) ∧
          (w.kind ≠ .paired →
            exec (.openView cnt) s = .next (s.completed codeView cnt .wrongKind [])) ∧
          ∀ p, w.body = .paired p → w.draining = false →
            (rangeAllowed (opr s 2) w.pages = false →
              exec (.openView cnt) s = .next (s.completed codeView cnt .badOperand [])) ∧
            (rangeAllowed (opr s 2) w.pages = true →
              (s.groups.isOpen group = false →
                exec (.openView cnt) s = .next (s.completed codeView cnt .protected_ [])) ∧
              (s.groups.isOpen group = true →
                ((∃ j v, (s.slot j).win = some v ∧
                    rangesMeet (viewWindow (opr s 2) readMask group h w) v = true) →
                  exec (.openView cnt) s = .next (s.completed codeView cnt .overlap [])) ∧
                ((∀ j v, (s.slot j).win = some v →
                    rangesMeet (viewWindow (opr s 2) readMask group h w) v = false) →
                  exec (.openView cnt) s =
                    .next { s with
                      slots := (s.slots.set h.index
                          { s.slot h.index with
                            win := some { w with body := .paired { p with views := p.views + 1 } } }).set i
                        { inst := (s.slot i).inst + 1,
                          win := some
                            { base := opr s 2, pages := w.pages, lineSize := w.lineSize,
                              readMask := readMask, writeMask := 0, group := group, body := .view h } },
                      cmd := s.cmd.completed codeView cnt .done
                        [at_ 0 (i.val + 256 * ((s.slot i).inst + 1).toNat)] })))

/-- MODIFY makes its checks in order, and one that passes replaces the two masks and the group in one event,
returns the former three, and changes nothing else (R153, R154). -/
def Obligations.ModifyChecksInOrderAndReplaces : Prop :=
  (∀ (s : State) (w : Window), ((modifyOperands s w).isSome = true ↔
     field (opr s 1) 12 4 = 0 ∧ field (opr s 1) 20 4 = 0 ∧ (field (opr s 1) 4 4).toNat ≤ 3 ∧
       (w.kind = .view → field (opr s 1) 16 4 = 0)) ∧
     ∀ readMask writeMask group, modifyOperands s w = some (readMask, writeMask, group) →
       readMask = field (opr s 1) 8 4 ∧ writeMask = field (opr s 1) 16 4 ∧
         group.val = (field (opr s 1) 4 4).toNat) ∧
  ∀ (cnt : BitVec 8) (s : State), s.accepts →
    (oprWindow s = none → exec (.modify cnt) s = .next (s.completed codeModify cnt .notFound [])) ∧
    ∀ h w, oprWindow s = some (h, w) →
      (w.draining = true → exec (.modify cnt) s = .next (s.completed codeModify cnt .retiring [])) ∧
      (w.draining = false →
        (modifyOperands s w = none →
          exec (.modify cnt) s = .next (s.completed codeModify cnt .badOperand [])) ∧
        ∀ readMask writeMask group, modifyOperands s w = some (readMask, writeMask, group) →
          (s.groups.isOpen w.group = false ∨ s.groups.isOpen group = false →
            exec (.modify cnt) s = .next (s.completed codeModify cnt .protected_ [])) ∧
          (s.groups.isOpen w.group = true → s.groups.isOpen group = true →
            ((∃ p, s.lockHolder h = some p ∧ ¬(inMask readMask p = true ∧ inMask writeMask p = true)) →
              exec (.modify cnt) s = .next (s.completed codeModify cnt .locked [])) ∧
            ((∀ p, s.lockHolder h = some p → inMask readMask p = true ∧ inMask writeMask p = true) →
              exec (.modify cnt) s =
                .next { s with
                  slots := s.slots.set h.index
                    { s.slot h.index with
                      win := some { w with readMask := readMask, writeMask := writeMask,
                                           group := group } },
                  cmd := s.cmd.completed codeModify cnt .done
                    [at_ 4 w.group.val ||| at_ 8 w.readMask.toNat ||| at_ 16 w.writeMask.toNat] })))

/-- RETIRE makes its checks in order, and a refused one changes nothing but the command unit; one that passes
frees a PLAIN, TRACKED or VIEW window at once whatever its option, and a PAIRED window without FLUSH at once
when no publish of it is at the unit, and completes with DONE; its event ends with the grant decision that
stands to be made, if any (R155, R156, R158). -/
def Obligations.RetireChecksInOrderAndFrees : Prop :=
  (∀ (cnt : BitVec 8) (s : State), s.accepts →
     (oprWindow s = none →
       exec (.retire cnt) s = .next (arbitrate (s.completed codeRetire cnt .notFound []))) ∧
     ∀ h w, oprWindow s = some (h, w) →
       (s.isLocked h = true →
         exec (.retire cnt) s = .next (arbitrate (s.completed codeRetire cnt .locked []))) ∧
       (s.isLocked h = false →
         (s.groups.isOpen w.group = false →
           exec (.retire cnt) s = .next (arbitrate (s.completed codeRetire cnt .protected_ []))) ∧
         (s.groups.isOpen w.group = true →
           (w.draining = true → bitAt (opr s 1) 0 = true →
             exec (.retire cnt) s = .next (arbitrate (s.completed codeRetire cnt .retiring []))) ∧
           (¬(w.draining = true ∧ bitAt (opr s 1) 0 = true) → ∀ p, w.body = .paired p → 0 < p.views →
             exec (.retire cnt) s = .next (arbitrate (s.completed codeRetire cnt .hasViews [])))))) ∧
  ∀ (cnt : BitVec 8) (s : State) (h : Handle) (w : Window), s.accepts → oprWindow s = some (h, w) →
    s.isLocked h = false → s.groups.isOpen w.group = true →
    (w.kind ≠ .paired ∨
      bitAt (opr s 1) 0 = false ∧ s.pubUnit.handle? ≠ some h ∧ ∃ p, w.body = .paired p ∧ p.views = 0) →
    exec (.retire cnt) s =
      .next (arbitrate { freeWindow h s with cmd := s.cmd.completed codeRetire cnt .done [] })

/-- Freeing a window makes its slot FREE with its instance kept, returns its marks, frees its guards, takes
one from its source's view count if it is a view, and takes it from the drain queue (R8, R52, R144). -/
def Obligations.FreeingReturnsWhatTheWindowHeld : Prop :=
  ∀ (h : Handle) (w : Window) (s : State), s.window? h = some w →
    (freeWindow h s).slot h.index = { inst := h.inst, win := none } ∧
    (freeWindow h s).free = s.free + w.marks ∧
    (∀ i, (freeWindow h s).guard i =
      match s.guard i with
      | none => none
      | some g => if g.window = h then none else some g) ∧
    (∀ x, x ∈ (freeWindow h s).engine.drainQueue ↔ x ∈ s.engine.drainQueue ∧ x ≠ h) ∧
    (∀ src v p, w.body = .view src → s.paired? src = some (v, p) →
      (freeWindow h s).window? src = some { v with body := .paired { p with views := p.views - 1 } }) ∧
    (∀ i, i ≠ h.index → (∀ src, w.body = .view src → src.index ≠ i) →
      (freeWindow h s).slot i = s.slot i) ∧
    freeWindow h s =
      { s with slots := (freeWindow h s).slots, free := s.free + w.marks,
               urgency := urgencyAfter s.engine.config.urgeOn s.engine.config.urgeOff
                 (s.free + w.marks) s.urgency,
               guards := (freeWindow h s).guards,
               engine := { s.engine with drainQueue := (freeWindow h s).engine.drainQueue } }

/-- A RETIRE without FLUSH of a window whose publish is copying a line asks the unit for an abandon and
stays BUSY; the window and everything else stay as they are (R66, R156). -/
def Obligations.RetireWaitsForTheLineBoundary : Prop :=
  ∀ (cnt : BitVec 8) (s : State) (h : Handle) (w : Window) (p : Paired), s.accepts →
    oprWindow s = some (h, w) → w.body = .paired p → p.views = 0 → s.isLocked h = false →
    s.groups.isOpen w.group = true → bitAt (opr s 1) 0 = false →
    (∀ r n, s.pubUnit = .reading r n → r.handle = h →
      exec (.retire cnt) s =
        .next (arbitrate { s with
          cmd := s.cmd.accepted codeRetire cnt,
          pubUnit := .reading { r with abandons := r.abandons ++ [.retired] } n })) ∧
    ∀ r n bs, s.pubUnit = .writing r n bs → r.handle = h →
      exec (.retire cnt) s =
        .next (arbitrate { s with
          cmd := s.cmd.accepted codeRetire cnt,
          pubUnit := .writing { r with abandons := r.abandons ++ [.retired] } n bs })

/-- RETIRE with FLUSH makes an ACTIVE PAIRED window DRAINING with no attempt counted, at the tail of the
drain queue, and completes with ACCEPTED; an engine IDLE with nothing else to do frees a window with nothing
left to publish in the same event, CLEAN, staying IDLE (R115, R116, R118, R157). -/
def Obligations.RetireWithFlushDrains : Prop :=
  ∀ (cnt : BitVec 8) (s : State) (h : Handle) (w : Window) (p : Paired), s.accepts →
    oprWindow s = some (h, w) → w.body = .paired p → p.views = 0 → p.drain = none →
    s.isLocked h = false → s.groups.isOpen w.group = true → bitAt (opr s 1) 0 = true →
    (s.engine.state ≠ .idle →
      exec (.retire cnt) s =
        .next (arbitrate { s with
          slots := s.slots.set h.index
            { s.slot h.index with win := some { w with body := .paired { p with drain := some 0 } } },
          engine := { s.engine with drainQueue := s.engine.drainQueue ++ [h] },
          cmd := s.cmd.completed codeRetire cnt .accepted [] })) ∧
    (s.quiet → s.pubUnit = .ready → (∀ q, s.waitingAccess q = none) → p.work = none →
      p.dirty = .lines [] → ∃ t, exec (.retire cnt) s = .next t ∧ t.window? h = none ∧
        t.free = s.free + p.carry.marks ∧ t.engine.drainQueue = [] ∧ t.engine.state = .idle ∧
        t.isPending .windowFreed = true ∧
        t.events.retireReport = { index := h.index, inst := h.inst, outcome := some .clean } ∧
        t.cmd = s.cmd.completed codeRetire cnt .accepted [])

/-- QUERY of a window its handle matches completes with DONE and its result words and changes nothing else:
the record, its sets by their sizes, the lock holder and the group's flag in the places of the QUERY table of
11.4, and 0 in every other bit, so that the two masks that R160 lists are in the report but in no result word
(the model's reading of R178, log 26); LOOKUP of a byte address, as it is given, completes with DONE and the
translation a port's access would meet, with MISS where no window holds it, and with BAD_OPERAND for a port
above 3; the store address it returns is the live offset plus the offset, or for a VIEW the offset of its
source's current bank plus the offset, with the unpublished indication while the source's generation is 0
(R160, R162). -/
def Obligations.QueryAndLookupReport : Prop :=
  (∀ (cnt : BitVec 8) (s : State), s.accepts →
     (oprWindow s = none → exec (.query cnt) s = .next (s.completed codeQuery cnt .notFound [])) ∧
     ∀ h w, oprWindow s = some (h, w) →
       exec (.query cnt) s = .next (s.completed codeQuery cnt .done (queryWords s h w)) ∧
       (queryReport s h w).readMask = w.readMask ∧ (queryReport s h w).writeMask = w.writeMask ∧
       (∀ l, w.body = .plain l →
         queryWords s h w =
           [ at_ 0 1 ||| at_ 4 1 ||| at_ 8 h.inst.toNat ||| at_ 16 w.group.val |||
               at_ 18 (s.groups.isOpen w.group).toNat ||| at_ 19 (s.isLocked h).toNat |||
               at_ 20 ((s.lockHolder h).elim 0 Fin.val),
             w.base &&& 0xFFFFF000#32 ||| at_ 9 w.lineSize.code ||| at_ 0 w.pages,
             at_ 16 w.lineCount, at_ 0 0xFFFF ||| at_ 16 0xFFFF, l, 0, 0, at_ 0 0xFFFF ||| at_ 16 0xFFFF ]) ∧
       (∀ src, w.body = .view src →
         queryWords s h w =
           [ at_ 0 1 ||| at_ 4 4 ||| at_ 8 h.inst.toNat ||| at_ 16 w.group.val |||
               at_ 18 (s.groups.isOpen w.group).toNat ||| at_ 19 (s.isLocked h).toNat |||
               at_ 20 ((s.lockHolder h).elim 0 Fin.val),
             w.base &&& 0xFFFFF000#32 ||| at_ 9 w.lineSize.code ||| at_ 0 w.pages,
             at_ 16 w.lineCount, at_ 0 0xFFFF ||| at_ 16 0xFFFF,
             at_ 0 (src.index.val + 256 * src.inst.toNat), 0, 0, at_ 0 0xFFFF ||| at_ 16 0xFFFF ]) ∧
       (∀ p, w.body = .paired p →
         queryWords s h w =
           [ at_ 0 (if p.drain.isSome then 2 else 1) ||| at_ 2 (p.drain.getD 0) ||| at_ 4 3 |||
               at_ 7 (if p.current = .a then 0 else 1) ||| at_ 8 h.inst.toNat ||| at_ 16 w.group.val |||
               at_ 18 (s.groups.isOpen w.group).toNat ||| at_ 19 (s.isLocked h).toNat |||
               at_ 20 ((s.lockHolder h).elim 0 Fin.val) ||| at_ 22 p.views,
             w.base &&& 0xFFFFF000#32 ||| at_ 9 w.lineSize.code ||| at_ 0 w.pages,
             at_ 0 p.gen.toNat ||| at_ 16 w.lineCount,
             at_ 0 (setField (some p.dirty)) |||
               at_ 16 (match p.work with | none => 0xFFFF | some k => k.pos),
             p.live, p.bankA, p.bankB,
             at_ 0 (match p.work with | none => 0xFFFF | some k => setField (some k.set)) |||
               at_ 16 (setField (some p.carry)) ]) ∧
       ∀ l d, w.body = .tracked l d →
         queryWords s h w =
           [ at_ 0 1 ||| at_ 4 2 ||| at_ 8 h.inst.toNat ||| at_ 16 w.group.val |||
               at_ 18 (s.groups.isOpen w.group).toNat ||| at_ 19 (s.isLocked h).toNat |||
               at_ 20 ((s.lockHolder h).elim 0 Fin.val),
             w.base &&& 0xFFFFF000#32 ||| at_ 9 w.lineSize.code ||| at_ 0 w.pages,
             at_ 16 w.lineCount, at_ 0 (setField (some d)) ||| at_ 16 0xFFFF, l, 0, 0,
             at_ 0 0xFFFF ||| at_ 16 0xFFFF ]) ∧
  (setField (some .whole) = 0x8000 ∧ ∀ l, setField (some (.lines l)) = l.length) ∧
  (LineSize.code .b64 = 0 ∧ LineSize.code .b128 = 1 ∧ LineSize.code .b256 = 2) ∧
  (Kind.code .plain = 1 ∧ Kind.code .tracked = 2 ∧ Kind.code .paired = 3 ∧ Kind.code .view = 4) ∧
  (∀ (s : State) (w : Window) (x : Nat),
     (∀ l, w.body = .plain l → lookupStore s w x = l.toNat + x) ∧
     (∀ l d, w.body = .tracked l d → lookupStore s w x = l.toNat + x) ∧
     (∀ p, w.body = .paired p → lookupStore s w x = p.live.toNat + x) ∧
     (w.kind ≠ .view → unpublished s w = false) ∧
     ∀ src v p, w.body = .view src → s.paired? src = some (v, p) →
       lookupStore s w x = (match p.current with | .a => p.bankA.toNat | .b => p.bankB.toNat) + x ∧
         (unpublished s w = true ↔ p.gen = 0)) ∧
  ∀ (cnt : BitVec 8) (s : State), s.accepts →
    (3 < (field (opr s 0) 0 8).toNat →
      exec (.lookup cnt) s = .next (s.completed codeLookup cnt .badOperand [])) ∧
    ∀ p, portOf (field (opr s 0) 0 8) = some p →
      ((∀ i w, (s.slot i).win = some w → w.covers (opr s 1).toNat = false) →
        exec (.lookup cnt) s = .next (s.completed codeLookup cnt .miss [])) ∧
      ∀ i w, s.windowAt (opr s 1).toNat = some (i, w) →
        exec (.lookup cnt) s =
          .next (s.completed codeLookup cnt .done
            [ at_ 0 (i.val + 256 * (s.slot i).inst.toNat) ||| at_ 16 w.kind.code |||
                at_ 20 (if w.draining then 2 else 1) ||| at_ 24 (inMask w.readMask p).toNat |||
                at_ 25 (inMask w.writeMask p).toNat |||
                at_ 26 (decide ((s.port p).state = .active)).toNat ||| at_ 27 (unpublished s w).toNat,
              BitVec.ofNat 32 ((opr s 1).toNat - w.base.toNat),
              BitVec.ofNat 32 (((opr s 1).toNat - w.base.toNat) / w.lineSize.bytes),
              BitVec.ofNat 32 (lookupStore s w ((opr s 1).toNat - w.base.toNat)) ])

/-- COLLECT takes up to 16 indices from the front of a TRACKED window's list and returns them with their
marks freed, or takes a WHOLE set and says so; an unmatched handle is NOT_FOUND and another kind WRONG_KIND
(R55 to R57). -/
def Obligations.CollectTakesFromTheFront : Prop :=
  ∀ (cnt : BitVec 8) (s : State), s.accepts →
    (oprWindow s = none → exec (.collect cnt) s = .next (s.completed codeCollect cnt .notFound [])) ∧
    ∀ h w, oprWindow s = some (h, w) →
      (w.kind ≠ .tracked →
        exec (.collect cnt) s = .next (s.completed codeCollect cnt .wrongKind [])) ∧
      (∀ live, w.body = .tracked live .whole →
        exec (.collect cnt) s =
          .next { s with
            slots := s.slots.set h.index
              { s.slot h.index with win := some { w with body := .tracked live (.lines []) } },
            cmd := s.cmd.completed codeCollect cnt .done [at_ 5 1] }) ∧
      ∀ live l, w.body = .tracked live (.lines l) →
        exec (.collect cnt) s =
          .next { s with
            slots := s.slots.set h.index
              { s.slot h.index with win := some { w with body := .tracked live (.lines (l.drop 16)) } },
            free := s.free + min 16 l.length,
            urgency := urgencyAfter s.engine.config.urgeOn s.engine.config.urgeOff
              (s.free + min 16 l.length) s.urgency,
            cmd := s.cmd.completed codeCollect cnt .done
              ((at_ 0 (min 16 l.length) ||| at_ 6 (l.length - 16)) ::
                (List.range 7).map fun k => (packIndices (l.take 16)).extractLsb' (32 * k) 32) }

/-! ### Word guards (ch. 8) -/

/-- GUARD makes its checks in order, and one that passes sets the lowest FREE record with the operand values
and no trip record and returns its index; nothing else changes (R137). -/
def Obligations.GuardChecksInOrderAndFills : Prop :=
  (∀ (s : State) (h : Handle) (w : Window), ((guardOperands s h w).isSome = true ↔
     (field (opr s 1) 0 20).toNat % 4 = 0 ∧ (field (opr s 1) 0 20).toNat < w.size ∧
       (field (opr s 4) 0 2 = 1 ∧ (opr s 2).toNat ≤ (opr s 3).toNat ∨
         field (opr s 4) 0 2 = 2 ∧ (opr s 2).toInt ≤ (opr s 3).toInt) ∧
       (field (opr s 4) 4 2 = 1 ∨ field (opr s 4) 4 2 = 2) ∧
       field (opr s 4) 8 4 ≠ 0 ∧ field (opr s 4) 12 4 = 0) ∧
     ∀ g, guardOperands s h w = some g →
       g.sign = (if field (opr s 4) 0 2 = 1 then .unsigned else .signed) ∧
         g.action = (if field (opr s 4) 4 2 = 1 then .refuse else .report)) ∧
  ∀ (cnt : BitVec 8) (s : State), s.accepts →
    (oprWindow s = none → exec (.guardSet cnt) s = .next (s.completed codeGuard cnt .notFound [])) ∧
    ∀ h w, oprWindow s = some (h, w) →
      (w.kind = .view → exec (.guardSet cnt) s = .next (s.completed codeGuard cnt .wrongKind [])) ∧
      (w.kind ≠ .view →
        (s.groups.isOpen w.group = false →
          exec (.guardSet cnt) s = .next (s.completed codeGuard cnt .protected_ [])) ∧
        (s.groups.isOpen w.group = true →
          (guardOperands s h w = none →
            exec (.guardSet cnt) s = .next (s.completed codeGuard cnt .badOperand [])) ∧
          ∀ g, guardOperands s h w = some g →
            (g.window = h ∧ g.offset = (field (opr s 1) 0 20).toNat ∧ g.low = opr s 2 ∧
              g.high = opr s 3 ∧ g.mask = field (opr s 4) 8 4 ∧ g.trip = none ∧ g.offset % 4 = 0 ∧
              g.offset < w.size ∧ g.mask ≠ 0 ∧ rangeOrdered g.sign g.low g.high = true) ∧
            ((∃ i k, s.guard i = some k ∧ k.window = h ∧ k.offset = g.offset) →
              exec (.guardSet cnt) s = .next (s.completed codeGuard cnt .duplicate [])) ∧
            ((∀ i k, s.guard i = some k → ¬(k.window = h ∧ k.offset = g.offset)) →
              ((∀ i, s.guard i ≠ none) →
                exec (.guardSet cnt) s = .next (s.completed codeGuard cnt .noSpace [])) ∧
              ∀ i, s.guard i = none → (∀ j, j < i → s.guard j ≠ none) →
                exec (.guardSet cnt) s =
                  .next { s with guards := s.guards.set i (some g),
                                 cmd := s.cmd.completed codeGuard cnt .done [at_ 0 i.val] })))

/-- UNGUARD frees one SET record with its trip record; GUARDQ returns one record and, with its clear option,
clears its trip record and nothing else; an index above 15 is BAD_OPERAND for both (R138, R139). -/
def Obligations.UnguardFreesAndGuardqReports : Prop :=
  ∀ (cnt : BitVec 8) (s : State), s.accepts →
    (15 < (field (opr s 0) 0 8).toNat →
      exec (.unguard cnt) s = .next (s.completed codeUnguard cnt .badOperand []) ∧
      exec (.guardq cnt) s = .next (s.completed codeGuardq cnt .badOperand [])) ∧
    ∀ i, guardOf (field (opr s 0) 0 8) = some i →
      (s.guard i = none →
        exec (.unguard cnt) s = .next (s.completed codeUnguard cnt .notFound []) ∧
        exec (.guardq cnt) s = .next (s.completed codeGuardq cnt .done [])) ∧
      ∀ g, s.guard i = some g →
        ((∃ w, s.window? g.window = some w ∧ s.groups.isOpen w.group = false) →
          exec (.unguard cnt) s = .next (s.completed codeUnguard cnt .protected_ [])) ∧
        ((∃ w, s.window? g.window = some w ∧ s.groups.isOpen w.group = true) →
          exec (.unguard cnt) s =
            .next { s with guards := s.guards.set i none,
                           cmd := s.cmd.completed codeUnguard cnt .done [] }) ∧
        exec (.guardq cnt) s =
          .next { s with
            guards := if bitAt (opr s 1) 0 then s.guards.set i (some { g with trip := none })
                      else s.guards,
            cmd := s.cmd.completed codeGuardq cnt .done
              [ at_ 0 1 ||| at_ 1 g.trip.isSome.toNat ||| at_ 2 g.sign.code ||| at_ 4 g.action.code |||
                  at_ 8 g.mask.toNat ||| at_ 16 (g.trip.elim 0 fun t => t.port.val) |||
                  at_ 24 (g.trip.elim 0 Trip.count),
                BitVec.ofNat 32 (g.window.index.val + 256 * g.window.inst.toNat),
                BitVec.ofNat 32 g.offset, g.low, g.high, g.trip.elim 0 Trip.value ] }

/-- A guard reads its checked value, low and high as its signedness gives: in range is not below low and not
above high; equal bounds admit one value, the full range of either reading admits every value, and a value
out of range is a trip (R141). -/
def Obligations.GuardRangeIsReadBySignedness : Prop :=
  ∀ (g : HeldGuard) (v : Word),
    (g.sign = .unsigned →
      (g.admits v = true ↔ g.low.toNat ≤ v.toNat ∧ v.toNat ≤ g.high.toNat)) ∧
    (g.sign = .signed →
      (g.admits v = true ↔ g.low.toInt ≤ v.toInt ∧ v.toInt ≤ g.high.toInt)) ∧
    (g.low = g.high → (g.admits v = true ↔ v = g.low)) ∧
    (g.sign = .unsigned → g.low = 0 → g.high = 0xFFFFFFFF#32 → g.admits v = true) ∧
    (g.sign = .signed → g.low = 0x80000000#32 → g.high = 0x7FFFFFFF#32 → g.admits v = true) ∧
    ∀ act, HeldGuard.trips act (g, v) = true ↔ g.action = act ∧ g.admits v = false

/-! ### The publish engine's commands and triggers (ch. 5, 6) -/

/-- SEQ and USEQ refuse a count above 16 or 4 and a handle whose index is above 31, and otherwise replace their
whole list and complete with DONE, which with no pass or run in progress is all they do (R86, R106); a SEQ
taken while a pass waits between STEPPED sub-runs ends it ABORTED with its report and PASS_DONE and takes the
cursor back to 0, and one taken while the engine is in RUN asks the unit for an abandon (R87).  At the unit's
report the old pass ends ABORTED, with the window's skipped bit after a failed copy, and with the entry counted
published where the last boundary was taken before the abandon and the window flipped; a new pass begins at
entry 0 of the list as it then stands, and in STEPPED none, and the window boundary choice follows; in HELD the
abandon and all of this come in the SEQ event; with a suspended context, whose W is merged into D while it is WAITING, and between two entries, the old pass
ends and the new one begins in the SEQ event, and the work in progress goes on (R87). -/
def Obligations.SeqAndUseqReplaceTheirLists : Prop :=
  (∀ (s : State) (n : Nat), n ≤ 16 →
     ((oprEntries s n).isSome = true ↔ ∀ k, k < n → (oprField s k).extractLsb' 0 8 < 32#8) ∧
     ∀ l, oprEntries s n = some l → l.length = n ∧
       ∀ (k : Nat) (h : Handle), l[k]? = some h →
         h.index.val = ((oprField s k).extractLsb' 0 8).toNat ∧ h.inst = (oprField s k).extractLsb' 8 8) ∧
  (∀ (cnt : BitVec 8) (s : State), s.accepts →
     (16 < cnt.toNat ∨ oprEntries s cnt.toNat = none →
       exec (.seq cnt) s = .next (arbitrate (s.completed codeSeq cnt .badOperand []))) ∧
     (4 < cnt.toNat ∨ oprEntries s cnt.toNat = none →
       exec (.useq cnt) s = .next (arbitrate (s.completed codeUseq cnt .badOperand []))) ∧
     ∀ l, oprEntries s cnt.toNat = some l →
       (cnt.toNat ≤ 16 → s.engine.working = none → s.engine.context = none →
         s.engine.purpose ≠ some .regular →
         exec (.seq cnt) s =
           .next (arbitrate { s with engine := { s.engine with regularSeq := l },
                                     cmd := s.cmd.completed codeSeq cnt .done [] })) ∧
       (cnt.toNat ≤ 4 → s.engine.urgentRun = none →
         exec (.useq cnt) s =
           .next (arbitrate { s with engine := { s.engine with urgentList := l },
                                     cmd := s.cmd.completed codeUseq cnt .done [] }))) ∧
  (∀ (cnt : BitVec 8) (s : State) (l : List Handle) (k : WorkReport), s.accepts → cnt.toNat ≤ 16 →
    oprEntries s cnt.toNat = some l → s.engine.context = none → s.engine.working = some k →
    (s.engine.run = none → s.engine.purpose = none →
      exec (.seq cnt) s =
        .next (arbitrate { s with
          engine := { s.engine with
            regularSeq := l, working := none, cursor := 0,
            passReport := { number := k.number, status := some .aborted, published := k.published,
                            skipped := k.skipped, vacant := k.vacant } },
          events := s.events.raised .passDone,
          cmd := s.cmd.completed codeSeq cnt .done [] })) ∧
    ∀ t, s.engine.purpose = some .regular → s.engine.state = .run →
      (∃ r n, s.pubUnit = .reading r n ∧ t = .reading { r with abandons := r.abandons ++ [.seq] } n) ∨
        (∃ r n bs, s.pubUnit = .writing r n bs ∧
          t = .writing { r with abandons := r.abandons ++ [.seq] } n bs) →
      exec (.seq cnt) s =
        .next (arbitrate { s with
          engine := { s.engine with regularSeq := l, restartPass := true }, pubUnit := t,
          cmd := s.cmd.completed codeSeq cnt .done [] })) ∧
  (∀ (s : State) (r : PublishRecord) (n : Nat) (w : Window) (p : Paired) (k : Working) (v : WorkReport),
    s.inReset = none → s.grant = some .engine → s.engine.state = .run → s.engine.purpose = some .regular →
    s.engine.restartPass = true → s.engine.working = some v → s.paired? r.handle = some (w, p) →
    p.work = some k → AbandonCause.retired ∉ r.abandons →
    (s.engine.regularSeq ≠ [] ∨ s.engine.config.mode = .stepped ∨ s.engine.config.autoUrgent = false) →
    let e : Engine := { s.engine with purpose := none, heldFrom := none }
    let skipped : WorkReport := { v with skipped := v.skipped ||| BitVec.twoPow 32 r.handle.index.val }
    (∀ bs cs, s.pubUnit = .writing r n bs → r.abandons = .seq :: cs →
      s.inStore (p.bankOffset r.idle + n * w.lineSize.bytes) bs.length = true →
      exec (.lineBoundary ⟨false, false⟩) s =
        .next (arbitrate (boundaryChoice { s.merged r.handle w p k with
          grant := none, pubUnit := .ready,
          store := Memory.write s.store (p.bankOffset r.idle + n * w.lineSize.bytes) bs,
          engine := e.passAgain v.aborted, events := s.events.raised .passDone }))) ∧
    (∀ bs, s.pubUnit = .writing r n bs → r.waited = 0 → r.suspendWaited = false →
      s.isLocked r.handle = false → nextCopyLine w { p with work := some { k with pos := n + 1 } } = none →
      s.inStore (p.bankOffset r.idle + n * w.lineSize.bytes) bs.length = true →
      exec (.lineBoundary ⟨false, true⟩) s =
        .next (arbitrate (boundaryChoice { s.flipped r.handle w p k r.idle with
          grant := none, pubUnit := .ready,
          store := Memory.write s.store (p.bankOffset r.idle + n * w.lineSize.bytes) bs,
          engine := e.passAgain { v with published := v.published + 1 }.aborted,
          events := s.events.raised .passDone }))) ∧
    (s.pubUnit = .reading r n →
      s.inStore (p.live.toNat + n * w.lineSize.bytes) w.lineSize.bytes = true →
      exec (.lineCopyReadDone true) s =
        .next (arbitrate (boundaryChoice { s.merged r.handle w p k with
          grant := none, pubUnit := .ready,
          engine := e.passAgain skipped.aborted,
          events := (s.events.faulted .publishFault
            (.lineCopy (BitVec.ofNat 32 (p.live.toNat + n * w.lineSize.bytes)) false
              r.handle.index)).raised .passDone }))) ∧
    ∀ bs early, s.pubUnit = .writing r n bs →
      s.inStore (p.bankOffset r.idle + n * w.lineSize.bytes) bs.length = true →
      exec (.lineBoundary ⟨true, early⟩) s =
        .next (arbitrate (boundaryChoice { s.merged r.handle w p k with
          grant := none, pubUnit := .ready,
          store := Memory.write s.store (p.bankOffset r.idle + n * w.lineSize.bytes)
            (unstatedBytes s.fresh (p.bankOffset r.idle + n * w.lineSize.bytes) bs.length),
          fresh := s.fresh + 1,
          engine := e.passAgain skipped.aborted,
          events := (s.events.faulted .publishFault
            (.lineCopy (BitVec.ofNat 32 (p.bankOffset r.idle + n * w.lineSize.bytes)) true
              r.handle.index)).raised .passDone }))) ∧
  ∀ (cnt : BitVec 8) (s : State) (l : List Handle) (v : WorkReport), s.accepts → cnt.toNat ≤ 16 →
    oprEntries s cnt.toNat = some l → s.engine.working = some v →
    (l ≠ [] ∨ s.engine.config.mode = .stepped ∨ s.engine.config.autoUrgent = false) →
    let e : Engine := { s.engine with regularSeq := l }
    let cmd : CommandUnit := s.cmd.completed codeSeq cnt .done []
    (∀ r w p k, s.engine.context = none → s.engine.state = .held → s.engine.purpose = some .regular →
      s.pubUnit = .paused r → s.paired? r.handle = some (w, p) → p.work = some k →
      exec (.seq cnt) s =
        .next (arbitrate (boundaryChoice { s.merged r.handle w p k with
          pubUnit := .ready,
          engine := { e with purpose := none, heldFrom := none }.passAgain v.aborted,
          events := s.events.raised .passDone, cmd := cmd }))) ∧
    (∀ c w p k, s.engine.context = some c → c.outcome = .waiting → s.paired? c.handle = some (w, p) →
      p.work = some k →
      exec (.seq cnt) s =
        .next (arbitrate { s.merged c.handle w p k with
          engine := { e with context := none }.passAgain v.aborted,
          events := s.events.raised .passDone, cmd := cmd })) ∧
    (∀ c, s.engine.context = some c → c.outcome ≠ .waiting →
      exec (.seq cnt) s =
        .next (arbitrate { s with
          engine := { e with context := none }.passAgain v.aborted,
          events := s.events.raised .passDone, cmd := cmd })) ∧
    ∀ m, s.engine.context = none → s.engine.purpose ≠ some .regular → s.engine.run = some m →
      exec (.seq cnt) s =
        .next (arbitrate { s with
          engine := e.passAgain v.aborted, events := s.events.raised .passDone, cmd := cmd })

/-- ENGSET makes its checks in order, and one that passes sets every configuration field, has the free count
compared with the new thresholds, and starts the pace timer afresh or stops it (R54, R88, R89). -/
def Obligations.EngsetChecksInOrderAndSets : Prop :=
  ∀ (cnt : BitVec 8) (s : State), s.accepts →
    (s.engine.state ≠ .idle ∨ s.engine.context ≠ none ∨ 0 < s.engine.cursor →
      exec (.engset cnt) s = .next (s.completed codeEngset cnt .engineBusy [])) ∧
    (s.engine.state = .idle → s.engine.context = none → s.engine.cursor = 0 →
      (field (opr s 0) 0 2 = 0 ∨ (field (opr s 0) 4 4).toNat = 0 ∨ 8 < (field (opr s 0) 4 4).toNat ∨
          field (opr s 1) 0 16 = 0 ∨ 8191 < (field (opr s 2) 0 14).toNat ∨
          field (opr s 2) 16 14 = 0 ∨ 8192 < (field (opr s 2) 16 14).toNat ∨
          (field (opr s 2) 16 14).toNat ≤ (field (opr s 2) 0 14).toNat →
        exec (.engset cnt) s = .next (s.completed codeEngset cnt .badOperand [])) ∧
      ∀ m, modeOf (field (opr s 0) 0 2) = some m → 1 ≤ (field (opr s 0) 4 4).toNat →
        (field (opr s 0) 4 4).toNat ≤ 8 → 1 ≤ (field (opr s 1) 0 16).toNat →
        (field (opr s 2) 0 14).toNat ≤ 8191 → (field (opr s 2) 16 14).toNat ≤ 8192 →
        (field (opr s 2) 0 14).toNat < (field (opr s 2) 16 14).toNat →
        (m = .stepped → bitAt (opr s 0) 8 = true →
          exec (.engset cnt) s = .next (s.completed codeEngset cnt .badMode [])) ∧
        (m ≠ .stepped ∨ bitAt (opr s 0) 8 = false →
          exec (.engset cnt) s =
            .next { s with
              engine := { s.engine with
                config :=
                  { mode := m, step := (field (opr s 0) 4 4).toNat, autoUrgent := bitAt (opr s 0) 8,
                    paceEnable := bitAt (opr s 0) 9, pacePeriod := (field (opr s 1) 0 16).toNat,
                    trigREnable := bitAt (opr s 0) 10, trigUEnable := bitAt (opr s 0) 11,
                    urgeOn := (field (opr s 2) 0 14).toNat, urgeOff := (field (opr s 2) 16 14).toNat },
                paceTimer := if bitAt (opr s 0) 9 then some ((field (opr s 1) 0 16).toNat * 100)
                             else none },
              urgency := urgencyAfter (field (opr s 2) 0 14).toNat (field (opr s 2) 16 14).toNat s.free
                s.urgency,
              cmd := s.cmd.completed codeEngset cnt .done [] }))

/-- A regular trigger is dropped with TRIGGER_LOST in STOPPING, during a regular run and with one pending, and
sets regular pending in URGENT, DRAIN and HELD; START, an enabled TRIG_R edge and a pace expiry each give one,
and an edge on a disabled TRIG_R or an expiry of a stopped pace timer gives none (R90 to R93). -/
def Obligations.RegularTriggersAreJudged : Prop :=
  (∀ s : State, s.engine.state = .stopping ∨ s.engine.run ≠ none ∨ s.engine.regularPending = true →
    (∀ cnt, s.accepts →
      exec (.start cnt) s =
        .next (arbitrate { s with events := s.events.raised .triggerLost,
                                  cmd := s.cmd.completed codeStart cnt .engineBusy [] })) ∧
    (s.inReset = none → s.engine.config.trigREnable = true →
      exec .trigREdge s = .next (arbitrate { s with events := s.events.raised .triggerLost })) ∧
    (s.inReset = none → s.engine.paceTimer ≠ none →
      exec .paceExpiry s =
        .next (arbitrate { s with
          events := s.events.raised .triggerLost,
          engine := { s.engine with paceTimer := some (s.engine.config.pacePeriod * 100) } }))) ∧
  (∀ s : State, s.engine.state = .urgent ∨ s.engine.state = .drain ∨ s.engine.state = .held →
    s.engine.run = none → s.engine.regularPending = false →
    (∀ cnt, s.accepts →
      exec (.start cnt) s =
        .next (arbitrate { s with engine := { s.engine with regularPending := true },
                                  cmd := s.cmd.completed codeStart cnt .accepted [] })) ∧
    (s.inReset = none → s.engine.config.trigREnable = true →
      exec .trigREdge s =
        .next (arbitrate { s with engine := { s.engine with regularPending := true } })) ∧
    (s.inReset = none → s.engine.paceTimer ≠ none →
      exec .paceExpiry s =
        .next (arbitrate { s with
          engine := { s.engine with
            regularPending := true,
            paceTimer := some (s.engine.config.pacePeriod * 100) } }))) ∧
  ∀ s : State, s.inReset = none →
    (s.engine.config.trigREnable = false → exec .trigREdge s = .next s) ∧
    (s.engine.paceTimer = none → exec .paceExpiry s = .next s)

/-- A regular trigger that finds the engine IDLE begins a pass in SINGLE and CONTINUOUS, numbered one higher,
and the publish of its first entry, in RUN; an urgent trigger that finds it IDLE begins an urgent run and the
publish of its first entry, in URGENT; in either D has moved into W and the lowest line of the copy set is
being read (R49, R63, R92, R94, R97, R108, R111). -/
def Obligations.TriggerStartsAPublish : Prop :=
  (∀ (s : State) (h : Handle) (l : List Handle) (w : Window) (p : Paired) (n : Nat), s.quiet →
     s.pubUnit = .ready → s.engine.config.mode ≠ .stepped → s.engine.regularSeq = h :: l →
     s.paired? h = some (w, p) → s.isLocked h = false → p.work = none →
     nextCopyLine w p.take = some n →
     let e : Engine := { s.engine with
       state := .run, heldFrom := none, passCounter := bump s.engine.passCounter,
       working := some { number := bump s.engine.passCounter, published := 0, skipped := 0, vacant := 0,
                         copied := false },
       run := some { pos := 0, remaining := none }, purpose := some .regular }
     (∀ cnt, s.accepts →
       exec (.start cnt) s =
         .next (arbitrate { s.publishing h w p n with
           engine := e, cmd := s.cmd.completed codeStart cnt .done [] })) ∧
     (s.inReset = none → s.engine.config.trigREnable = true →
       exec .trigREdge s = .next (arbitrate { s.publishing h w p n with engine := e })) ∧
     (s.inReset = none → s.engine.paceTimer ≠ none →
       exec .paceExpiry s =
         .next (arbitrate { s.publishing h w p n with
           engine := { e with paceTimer := some (s.engine.config.pacePeriod * 100) } }))) ∧
  ∀ (s : State) (h : Handle) (l : List Handle) (w : Window) (p : Paired) (n : Nat), s.quiet →
    s.pubUnit = .ready → s.engine.config.autoUrgent = false → s.engine.urgentList = h :: l →
    s.paired? h = some (w, p) → s.isLocked h = false → p.work = none →
    nextCopyLine w p.take = some n →
    let e : Engine := { s.engine with
      state := .urgent, heldFrom := none, urgentCounter := bump s.engine.urgentCounter,
      urgentRun := some
        { pos := 0,
          work := { number := bump s.engine.urgentCounter, published := 0, skipped := 0, vacant := 0,
                    copied := false } },
      purpose := some .urgent }
    (∀ cnt, s.accepts →
      exec (.urgent cnt) s =
        .next (arbitrate { s.publishing h w p n with
          engine := e, cmd := s.cmd.completed codeUrgent cnt .done [] })) ∧
    (s.inReset = none → s.engine.config.trigUEnable = true →
      exec .trigUEdge s = .next (arbitrate { s.publishing h w p n with engine := e }))

/-- An urgent trigger from URGENT or an enabled TRIG_U is dropped with TRIGGER_LOST in STOPPING, with
auto-urgent on, and with one requested or a run in progress; in RUN it suspends the regular publish at its
next line boundary, and in DRAIN it waits for the boundary that ends the drain publish (R108, R110). -/
def Obligations.UrgentTriggersAreJudged : Prop :=
  (∀ s : State, s.engine.state = .stopping ∨ s.engine.config.autoUrgent = true ∨
      s.engine.urgentRequested = true ∨ s.engine.urgentRun ≠ none →
    (∀ cnt, s.accepts →
      exec (.urgent cnt) s =
        .next (arbitrate { s with events := s.events.raised .triggerLost,
                                  cmd := s.cmd.completed codeUrgent cnt .engineBusy [] })) ∧
    (s.inReset = none → s.engine.config.trigUEnable = true →
      exec .trigUEdge s = .next (arbitrate { s with events := s.events.raised .triggerLost }))) ∧
  (∀ s : State, s.engine.config.autoUrgent = false → s.engine.urgentRequested = false →
    s.engine.urgentRun = none →
    (∀ t, s.engine.state = .run →
      (∃ r n, s.pubUnit = .reading r n ∧ t = .reading { r with suspend := true } n) ∨
        (∃ r n bs, s.pubUnit = .writing r n bs ∧ t = .writing { r with suspend := true } n bs) →
      (∀ cnt, s.accepts →
        exec (.urgent cnt) s =
          .next (arbitrate { s with
            engine := { s.engine with urgentRequested := true }, pubUnit := t,
            cmd := s.cmd.completed codeUrgent cnt .accepted [] })) ∧
      (s.inReset = none → s.engine.config.trigUEnable = true →
        exec .trigUEdge s =
          .next (arbitrate { s with
            engine := { s.engine with urgentRequested := true }, pubUnit := t }))) ∧
    (s.engine.state = .drain →
      (∀ cnt, s.accepts →
        exec (.urgent cnt) s =
          .next (arbitrate { s with engine := { s.engine with urgentRequested := true },
                                    cmd := s.cmd.completed codeUrgent cnt .accepted [] })) ∧
      (s.inReset = none → s.engine.config.trigUEnable = true →
        exec .trigUEdge s =
          .next (arbitrate { s with engine := { s.engine with urgentRequested := true } })))) ∧
  ∀ s : State, s.inReset = none → s.engine.config.trigUEnable = false → exec .trigUEdge s = .next s

/-- STOP in IDLE completes with DONE and does nothing else; in RUN, URGENT and DRAIN it enters STOPPING, asks
the unit for an abandon and stays BUSY, so that none is taken in STOPPING; in HELD the paused publish is
abandoned at once: W is merged into D, the pass and the urgent run in progress end ABORTED, each with its report
and event, the engine enters IDLE with ENGINE_IDLE, STOP completes with DONE, and the window boundary choice
takes up the drain queue, all in that event.  STOPPING ends at the line boundary: with the abandon, W merged into
D; with FLIPPED, where the last boundary was taken before the abandon; or with a failed copy.  A regular or
urgent entry is counted, published or skipped, in the pass or the run that ends, and one abandoned counts neither
way; the pass and the urgent run in progress end ABORTED, each with its report and event; a suspended context,
whose W is merged into D while it is WAITING, becomes absent; the engine enters IDLE with ENGINE_IDLE, STOP
completes with DONE, and the window boundary choice is made: a drain publish abandoned by STOP leaves its window
at the head of the drain queue with its attempts unchanged, and the choice publishes it again (R72, R101 to
R103, R112). -/
def Obligations.StopEndsThePublishInProgress : Prop :=
  (∀ (cnt : BitVec 8) (s : State), s.accepts →
     (s.engine.state = .idle →
       exec (.stop cnt) s = .next (arbitrate (s.completed codeStop cnt .done []))) ∧
     (s.engine.state = .run ∨ s.engine.state = .urgent ∨ s.engine.state = .drain →
       (∀ r n, s.pubUnit = .reading r n →
         exec (.stop cnt) s =
           .next (arbitrate { s with
             engine := { s.engine with state := .stopping },
             pubUnit := .reading { r with abandons := r.abandons ++ [.stop] } n,
             cmd := s.cmd.accepted codeStop cnt })) ∧
       ∀ r n bs, s.pubUnit = .writing r n bs →
         exec (.stop cnt) s =
           .next (arbitrate { s with
             engine := { s.engine with state := .stopping },
             pubUnit := .writing { r with abandons := r.abandons ++ [.stop] } n bs,
             cmd := s.cmd.accepted codeStop cnt }))) ∧
  (∀ (s : State) (r : PublishRecord) (n : Nat) (bs : List Byte) (w : Window) (p : Paired) (k : Working)
    (m : RegularRun) (v : WorkReport), s.inReset = none → s.grant = some .engine →
    s.pubUnit = .writing r n bs → r.abandons = [.stop] → s.paired? r.handle = some (w, p) →
    p.work = some k → s.inStore (p.bankOffset r.idle + n * w.lineSize.bytes) bs.length = true →
    s.engine.state = .stopping → s.engine.purpose = some .regular → s.engine.run = some m →
    s.engine.working = some v → s.engine.context = none → s.engine.urgentRun = none →
    s.engine.drainQueue = [] → (∀ q, s.waitingAccess q = none) →
    ∃ t, exec (.lineBoundary ⟨false, false⟩) s = .next t ∧ t.pubUnit = .ready ∧
      t.paired? r.handle =
        some ({ w with body := .paired { p with dirty := p.dirty.union k.set, work := none } },
          { p with dirty := p.dirty.union k.set, work := none }) ∧
      t.engine.state = .idle ∧ t.engine.run = none ∧ t.engine.working = none ∧ t.engine.cursor = 0 ∧
      t.engine.passReport = { number := v.number, status := some .aborted, published := v.published,
                              skipped := v.skipped, vacant := v.vacant } ∧
      t.isPending .passDone = true ∧ t.isPending .engineIdle = true ∧
      t.cmd.busy = false ∧ t.cmd.status = .done) ∧
  (∀ (cnt : BitVec 8) (s : State) (r : PublishRecord) (w : Window) (p : Paired) (k : Working), s.accepts →
    s.engine.state = .held → s.pubUnit = .paused r → s.paired? r.handle = some (w, p) →
    p.work = some k →
    let stopped : State → Engine → EventUnit → State := fun u e v =>
      { u with
        pubUnit := .ready,
        engine := { e with
          state := .idle, heldFrom := none, purpose := none, run := none, working := none,
          urgentRun := none, context := none, regularPending := false, urgentRequested := false,
          restartPass := false, restartUrgent := false },
        events := v.raised .engineIdle, cmd := s.cmd.completed codeStop cnt .done [] }
    let ends : State → Prop := fun t =>
      exec (.stop cnt) s = .next (arbitrate (boundaryChoice t)) ∧
        (s.engine.drainQueue = [] → boundaryChoice t = t)
    let passEnds : State → Prop := fun g =>
      (∀ m v, s.engine.run = some m → s.engine.working = some v → s.engine.urgentRun = none →
        ends (stopped g { s.engine with passReport := v.aborted, cursor := 0 }
          (s.events.raised .passDone))) ∧
      ∀ m v u, s.engine.run = some m → s.engine.working = some v → s.engine.urgentRun = some u →
        ends (stopped g
          { s.engine with passReport := v.aborted, cursor := 0, urgentReport := u.work.aborted }
          ((s.events.raised .passDone).raised .urgentDone))
    (s.engine.context = none →
      passEnds (s.merged r.handle w p k) ∧
      ∀ u, s.engine.run = none → s.engine.working = none → s.engine.urgentRun = some u →
        ends (stopped (s.merged r.handle w p k) { s.engine with urgentReport := u.work.aborted }
          (s.events.raised .urgentDone))) ∧
    (∀ c, s.engine.context = some c → c.outcome ≠ .waiting → passEnds (s.merged r.handle w p k)) ∧
    ∀ c w' p' k', s.engine.context = some c → c.outcome = .waiting → c.handle ≠ r.handle →
      s.paired? c.handle = some (w', p') → p'.work = some k' →
      passEnds ((s.merged r.handle w p k).merged c.handle w' p' k')) ∧
  (∀ (s : State) (r : PublishRecord) (n : Nat) (bs : List Byte) (w : Window) (p : Paired) (k : Working)
    (pu : Purpose) (i : Instr) (g : State) (count : WorkReport → WorkReport), s.inReset = none →
    s.grant = some .engine → s.pubUnit = .writing r n bs → s.paired? r.handle = some (w, p) →
    p.work = some k → s.inStore (p.bankOffset r.idle + n * w.lineSize.bytes) bs.length = true →
    s.engine.state = .stopping → s.engine.purpose = some pu → AbandonCause.retired ∉ r.abandons →
    (i = .lineBoundary ⟨false, false⟩ ∧
        (∃ c cs, r.abandons = c :: cs ∧ (c = .stop ∨ c = .seq ∨ c = .useq)) ∧
        g = { s.merged r.handle w p k with
              grant := none, pubUnit := .ready,
              store := Memory.write s.store (p.bankOffset r.idle + n * w.lineSize.bytes) bs } ∧
        count = (fun v => v)) ∨
      (i = .lineBoundary ⟨false, true⟩ ∧ r.waited = 0 ∧ r.suspendWaited = false ∧
        s.isLocked r.handle = false ∧
        nextCopyLine w { p with work := some { k with pos := n + 1 } } = none ∧
        g = { s.flipped r.handle w p k r.idle with
              grant := none, pubUnit := .ready,
              store := Memory.write s.store (p.bankOffset r.idle + n * w.lineSize.bytes) bs } ∧
        count = fun v => { v with published := v.published + 1 }) ∨
      ((∃ early, i = .lineBoundary ⟨true, early⟩) ∧ pu ≠ .drain ∧
        g = { s.merged r.handle w p k with
              grant := none, pubUnit := .ready,
              store := Memory.write s.store (p.bankOffset r.idle + n * w.lineSize.bytes)
                (unstatedBytes s.fresh (p.bankOffset r.idle + n * w.lineSize.bytes) bs.length),
              fresh := s.fresh + 1,
              events := s.events.faulted .publishFault
                (.lineCopy (BitVec.ofNat 32 (p.bankOffset r.idle + n * w.lineSize.bytes)) true
                  r.handle.index) } ∧
        count = fun v => { v with skipped := v.skipped ||| BitVec.twoPow 32 r.handle.index.val }) →
    let pass : WorkReport → RunReport := fun v => (if pu = .regular then count v else v).aborted
    let urgent : WorkReport → RunReport := fun v => (if pu = .urgent then count v else v).aborted
    let ends : State → Engine → EventUnit → Prop := fun u e v =>
      exec i s = .next (arbitrate (boundaryChoice { u with
        engine := { e with
          state := .idle, heldFrom := none, purpose := none, run := none, urgentRun := none,
          context := none, regularPending := false, urgentRequested := false, restartPass := false,
          restartUrgent := false },
        events := v.raised .engineIdle,
        cmd := { s.cmd with results := Vector.replicate 8 0, status := .done, busy := false } }))
    let passEnds : State → Prop := fun u => ∀ m v, s.engine.run = some m → s.engine.working = some v →
      let e : Engine := { s.engine with passReport := pass v, working := none, cursor := 0 }
      (s.engine.urgentRun = none → ends u e (g.events.raised .passDone)) ∧
      ∀ y, s.engine.urgentRun = some y →
        ends u { e with urgentReport := urgent y.work } ((g.events.raised .passDone).raised .urgentDone)
    (s.engine.context = none ∨ (∃ c, s.engine.context = some c ∧ c.outcome ≠ .waiting) → passEnds g) ∧
    (∀ c w' p' k', s.engine.context = some c → c.outcome = .waiting → c.handle ≠ r.handle →
      s.paired? c.handle = some (w', p') → p'.work = some k' → passEnds (g.merged c.handle w' p' k')) ∧
    (s.engine.context = none → s.engine.run = none → pu ≠ .regular →
      (s.engine.urgentRun = none → ends g s.engine g.events) ∧
      ∀ y, s.engine.urgentRun = some y →
        ends g { s.engine with urgentReport := urgent y.work } (g.events.raised .urgentDone))) ∧
  ∀ (s : State) (h : Handle) (l : List Handle) (w : Window) (p : Paired) (x : Nat),
    s.engine.state = .idle → s.pubUnit = .ready → s.engine.urgentRun = none →
    s.engine.urgentRequested = false → s.engine.context = none → s.engine.drainQueue = h :: l →
    s.paired? h = some (w, p) → p.work = none → p.dirty ≠ .lines [] → nextCopyLine w p.take = some x →
    boundaryChoice s =
      { s.publishing h w p x with
        engine := { s.engine with state := .drain, heldFrom := none, purpose := some .drain } }

/-! ### Window locks and the ports (ch. 7, R38, R39) -/

/-- BREAK with the form BREAK_ONE breaks the named port's lock in whatever phase and returns its window, or
reports that there was none; with the form SET_LIMIT it sets the hold limit, returns the former one, and
leaves every lock and its timer; a form that names neither, a port above 3 and a limit above 65535 are
BAD_OPERAND (R124, R127, R128).  The expiry of a running hold timer breaks its lock, with LOCK_BROKEN and the
unlock notice; a timer that is stopped, or none, does not expire (R124, R125, R131). -/
def Obligations.BreaksAndExpiriesEndLocks : Prop :=
  (∀ (cnt : BitVec 8) (s : State), s.accepts →
     (field (opr s 0) 0 2 = 0 ∨ field (opr s 0) 0 2 = 3 ∨
         field (opr s 0) 0 2 = 1 ∧ 3 < (field (opr s 1) 0 8).toNat →
       exec (.breakOne cnt) s = .next (s.completed codeBreak cnt .badOperand [])) ∧
     ∀ p, field (opr s 0) 0 2 = 1 → portOf (field (opr s 1) 0 8) = some p →
       (s.lock p = none → exec (.breakOne cnt) s = .next (s.completed codeBreak cnt .done [])) ∧
       ∀ l, s.lock p = some l →
         exec (.breakOne cnt) s =
           .next { s with
             locks := s.locks.set p none,
             events := s.events.raised .lockBroken,
             continues := if s.engine.state = .held ∧ s.pausedOn l.window = true then s.continues + 1
                          else s.continues,
             cmd := s.cmd.completed codeBreak cnt .done
               [1, BitVec.ofNat 32 (l.window.index.val + 256 * l.window.inst.toNat)] }) ∧
  (∀ (cnt : BitVec 8) (s : State), s.accepts → field (opr s 0) 0 2 = 2 →
     (65535 < (opr s 2).toNat →
       exec (.setLimit cnt) s = .next (s.completed codeBreak cnt .badOperand [])) ∧
     ((opr s 2).toNat ≤ 65535 →
       exec (.setLimit cnt) s =
         .next { s with holdLimit := (opr s 2).toNat,
                        cmd := s.cmd.completed codeBreak cnt .done [BitVec.ofNat 32 s.holdLimit] })) ∧
  ∀ (p : PortId) (s : State), s.inReset = none →
    (∀ l r, s.lock p = some l → l.timer = some (.running r) →
      exec (.holdTimerExpiry p) s =
        .next { s with
          locks := s.locks.set p none,
          events := s.events.raised .lockBroken,
          continues := if s.engine.state = .held ∧ s.pausedOn l.window = true then s.continues + 1
                       else s.continues }) ∧
    ((s.lock p = none ∨ ∃ l, s.lock p = some l ∧
        (l.timer = none ∨ ∃ r e, l.timer = some (.stopped r e))) →
      exec (.holdTimerExpiry p) s = .next s)

/-- PORT sets the state of the port it names and leaves its access in progress; STANDBY breaks the lock the
port holds; a port above 3 or a state that names neither is BAD_OPERAND (R38, R39). -/
def Obligations.PortSetsItsState : Prop :=
  ∀ (cnt : BitVec 8) (s : State), s.accepts →
    (3 < (field (opr s 0) 0 8).toNat ∨ field (opr s 1) 0 2 = 0 ∨ field (opr s 1) 0 2 = 3 →
      exec (.port cnt) s = .next (s.completed codePort cnt .badOperand [])) ∧
    ∀ p, portOf (field (opr s 0) 0 8) = some p →
      (field (opr s 1) 0 2 = 1 →
        exec (.port cnt) s =
          .next { s with ports := s.ports.set p { s.port p with state := .active },
                         cmd := s.cmd.completed codePort cnt .done [] }) ∧
      (field (opr s 1) 0 2 = 2 → s.lock p = none →
        exec (.port cnt) s =
          .next { s with ports := s.ports.set p { s.port p with state := .standby },
                         cmd := s.cmd.completed codePort cnt .done [] }) ∧
      ∀ l, field (opr s 1) 0 2 = 2 → s.lock p = some l →
        exec (.port cnt) s =
          .next { s with
            ports := s.ports.set p { s.port p with state := .standby },
            locks := s.locks.set p none,
            events := s.events.raised .lockBroken,
            continues := if s.engine.state = .held ∧ s.pausedOn l.window = true then s.continues + 1
                         else s.continues,
            cmd := s.cmd.completed codePort cnt .done [] }

/-! ### Requester accesses and the store port (ch. 2, 3) -/

/-- The address of an access is brought down to a multiple of its size (R22); the classes that read need the
port in the read mask, those that write in the write mask, and LOCK_READ both (R21, R27).  An access that fails
one of checks 1 to 5 is answered at once with the code of the first check it fails, with zero data for a read,
and with a fault record and ACCESS_FAULT unless it is a FETCH; nothing else changes (R25 to R28, R36, R37). -/
def Obligations.AccessRefusedBeforeTheArbiter : Prop :=
  (∀ a : Word, alignAddress a .one = a ∧ (alignAddress a .two).toNat = a.toNat / 2 * 2 ∧
     (alignAddress a .four).toNat = a.toNat / 4 * 4 ∧ (alignAddress a .eight).toNat = a.toNat / 8 * 8) ∧
  (∀ (p : PortId) (c : AccessClass) (w : Window),
     (hasRights p c w = true ↔
       (c = .read ∨ c = .fetch ∨ c = .lockRead → w.readMask.getLsbD p.val = true) ∧
         (c = .write ∨ c = .lockRead ∨ c = .releaseWrite → w.writeMask.getLsbD p.val = true)) ∧
     (needsWrite c = true ↔ c = .write ∨ c = .lockRead ∨ c = .releaseWrite) ∧
     (classReads c = true ↔ c = .read ∨ c = .fetch ∨ c = .lockRead)) ∧
  ∀ (p : PortId) (c : AccessClass) (z : AccessSize) (a : Word) (d : BitVec 64) (s : State),
    s.inReset = none → (s.port p).access = none →
    ((s.port p).state = .standby →
      exec (.requesterAccess p c z a d) s =
        .next (s.answeredAt p c (alignAddress a z) .portOff none (zeroData c z))) ∧
    ((s.port p).state = .active →
      ((∀ i w, (s.slot i).win = some w → w.covers (alignAddress a z).toNat = false) →
        exec (.requesterAccess p c z a d) s =
          .next (s.answeredAt p c (alignAddress a z) .miss none (zeroData c z))) ∧
      ∀ i w, s.windowAt (alignAddress a z).toNat = some (i, w) →
        (hasRights p c w = false →
          exec (.requesterAccess p c z a d) s =
            .next (s.answeredAt p c (alignAddress a z) .denied (some i) (zeroData c z))) ∧
        (hasRights p c w = true →
          (w.draining = true → needsWrite c = true →
            exec (.requesterAccess p c z a d) s =
              .next (s.answeredAt p c (alignAddress a z) .retiring (some i) (zeroData c z))) ∧
          (¬(w.draining = true ∧ needsWrite c = true) →
            ∀ src v q, w.body = .view src → s.paired? src = some (v, q) → q.gen = 0 →
              exec (.requesterAccess p c z a d) s =
                .next (s.answeredAt p c (alignAddress a z) .unpublished (some i) (zeroData c z)))))

/-- An access that passes checks 1 to 5 waits at the arbiter while the store port is held, and is granted at
once when it is FREE and nothing else waits: a read goes to the store, a LOCK_READ takes its window's lock
with the hold limit as its timer, and a write that no guard takes part in goes to the store, a RELEASE_WRITE
with its lock RELEASING and its timer stopped (R29, R30, R40, R41, R121, R123).  A LOCK_READ of a VIEW is not
among them: a VIEW's write mask is empty (R3), so it is refused DENIED before.  The window an access hits is the
one whose range holds the address (R12, R15); its offset is the address less the base, its line that offset
divided by the line size (R13, R14); the store address is the live offset plus the offset, and for a VIEW the
offset of its source's bank that is current at the grant plus the offset (R14, R77), and none where the source is
gone (the model's choice, log 12). -/
def Obligations.AccessWaitsOrIsGranted : Prop :=
  (∀ (s : State) (a : Nat) (i : SlotId) (w : Window),
     s.handleAt i = { index := i, inst := (s.slot i).inst } ∧
     (s.windowAt a = some (i, w) →
       (s.slot i).win = some w ∧ w.base.toNat ≤ a ∧ a < w.base.toNat + w.pages * 4096) ∧
     (RangesDisjoint s → (s.slot i).win = some w → w.base.toNat ≤ a →
       a < w.base.toNat + w.pages * 4096 → s.windowAt a = some (i, w))) ∧
  (∀ (c : AccessClass) (z : AccessSize) (a : Word) (d : BitVec 64) (h : Handle) (w : Window),
     newAccess c z a d h w =
       { cls := c, size := z, addr := a, data := d, handle := h, record := w,
         offset := a.toNat - w.base.toNat,
         line := (a.toNat - w.base.toNat) /
           (match w.lineSize with | .b64 => 64 | .b128 => 128 | .b256 => 256) }) ∧
  (∀ (s : State) (x : Access),
     (∀ l, x.record.body = .plain l → storeAddress s x = some (l.toNat + x.offset)) ∧
     (∀ l y, x.record.body = .tracked l y → storeAddress s x = some (l.toNat + x.offset)) ∧
     (∀ q, x.record.body = .paired q → storeAddress s x = some (q.live.toNat + x.offset)) ∧
     ∀ src, x.record.body = .view src →
       (s.paired? src = none → storeAddress s x = none) ∧
       ∀ v q, s.paired? src = some (v, q) →
         storeAddress s x =
           some ((match q.current with | .a => q.bankA.toNat | .b => q.bankB.toNat) + x.offset)) ∧
  ∀ (p : PortId) (c : AccessClass) (z : AccessSize) (a : Word) (d : BitVec 64) (s : State) (i : SlotId)
    (w : Window), s.inReset = none → (s.port p).access = none → (s.port p).state = .active →
    s.windowAt (alignAddress a z).toNat = some (i, w) → hasRights p c w = true →
    ¬(w.draining = true ∧ needsWrite c = true) → unpublished s w = false →
    let acc := newAccess c z (alignAddress a z) d (s.handleAt i) w
    let go : State → Sys2Proof.Machine.Result := fun t =>
      .next { t.accessAt p acc (.storing (storeAddress s acc)) with
        grant := some (.port p), pointer := p }
    (s.grant ≠ none → exec (.requesterAccess p c z a d) s = .next (s.accessAt p acc .waiting)) ∧
    (s.grant = none → s.nothingWaits →
      (c = .read ∨ c = .fetch → exec (.requesterAccess p c z a d) s = go s) ∧
      (c = .lockRead → w.kind ≠ .view → s.isLocked (s.handleAt i) = false → s.lock p = none →
        exec (.requesterAccess p c z a d) s =
          go { s with
            locks := s.locks.set p (some
              { window := s.handleAt i, phase := .heldByPort,
                timer := if s.holdLimit = 0 then none else some (.running s.holdLimit) }) }) ∧
      (c = .write → otherHolds p (s.handleAt i) s = false → takingPart p acc s = [] →
        exec (.requesterAccess p c z a d) s = go s) ∧
      ∀ l, c = .releaseWrite → s.lock p = some l → l.window = s.handleAt i →
        takingPart p acc s = [] →
        exec (.requesterAccess p c z a d) s =
          go { s with
            locks := s.locks.set p
              (some { l with phase := .releasing, timer := l.timer.map HoldTimer.stop }) })

/-- The lock checks of a grant, in order, and what a refusal by one does: the access is answered, the store
port is given back, and nothing else changes (R29, R122); a slot come round to a VIEW of the looked-up instance
is answered MISS, so that no VIEW is locked (R120; the model's choice, log 37). -/
def Obligations.LockChecksAtTheGrant : Prop :=
  ∀ (p : PortId) (a : Access) (s : State), LocksSound s →
    (a.cls = .read ∨ a.cls = .fetch → lockCheck p a s = none) ∧
    (a.cls = .write →
      ((∃ q, q ≠ p ∧ s.holds q a.handle = true) → lockCheck p a s = some .locked) ∧
      ((∀ q, q ≠ p → s.holds q a.handle = false) → lockCheck p a s = none)) ∧
    (a.cls = .releaseWrite →
      lockCheck p a s = if s.holds p a.handle then none else some .lockLost) ∧
    (a.cls = .lockRead →
      (s.window? a.handle = none → lockCheck p a s = some .miss) ∧
      ∀ w, s.window? a.handle = some w →
        (w.kind = .view → lockCheck p a s = some .miss) ∧
        (w.draining = true → lockCheck p a s = some .retiring) ∧
        (w.kind ≠ .view → w.draining = false →
          ((s.port p).state = .standby → lockCheck p a s = some .portOff) ∧
          ((s.port p).state = .active →
            ((∃ q, q ≠ p ∧ s.holds q a.handle = true) → lockCheck p a s = some .locked) ∧
            ((∀ q, q ≠ p → s.holds q a.handle = false) →
              lockCheck p a s = if s.lock p = none then none else some .lockHeld)))) ∧
    ∀ r, lockCheck p a s = some r →
      grantAccess p a s =
        { s.answeredAt p a.cls a.addr r
            (if r = .miss ∨ r = .portOff then none else some a.handle.index) (zeroData a.cls a.size) with
          grant := none }

/-- The guards taking part in a write are those SET on its window with the looked-up instance whose port mask
includes the port and whose word the write changes, two words for a write of 8 bytes, each once (R140).  The
guard check of a WRITE at its grant: a REFUSE guard out of range refuses it with GUARD and nothing else
changes; otherwise each REPORT guard out of range records its trip, GUARD_TRIP is raised, and the write goes to
the store; a 1- or 2-byte write that a guard takes part in first makes its merging read (R30, R140, R142,
R143).  A record freed and SET again with the same window and word offset takes the trip (the model's choice,
log 39).  A RELEASE_WRITE is checked alike: refused, it keeps its lock with its timer running on, which had
time left (the model's choice, log 38), and otherwise its lock is RELEASING with the timer stopped (R123). -/
def Obligations.GuardsJudgeAWriteAtItsGrant : Prop :=
  (∀ (p : PortId) (a : Access) (s : State),
     ((takingPart p a s).map HeldGuard.index).Nodup ∧
     ∀ g : HeldGuard, g ∈ takingPart p a s ↔
       ∃ k, s.guard g.index = some k ∧ k.window = a.handle ∧ k.mask.getLsbD p.val = true ∧
         (k.offset = a.offset / 4 * 4 ∨ a.size = .eight ∧ k.offset = a.offset / 4 * 4 + 4) ∧
         g.offset = k.offset ∧ g.low = k.low ∧ g.high = k.high ∧ g.sign = k.sign ∧ g.action = k.action) ∧
  (∀ (p : PortId) (a : Access) (s : State), a.cls = .write → otherHolds p a.handle s = false →
    takingPart p a s ≠ [] →
    let cs := (takingPart p a s).map fun g => (g, checkedWord a g)
    (a.size = .one ∨ a.size = .two →
      grantAccess p a s =
        { s with
          ports := s.ports.set p
            { s.port p with access := some { acc := a, stage := .merging (takingPart p a s) } } }) ∧
    (a.size = .four ∨ a.size = .eight →
      ((∃ x ∈ cs, x.1.action = .refuse ∧ x.1.admits x.2 = false) →
        grantAccess p a s =
          { s.answeredAt p a.cls a.addr .guard (some a.handle.index) [] with grant := none }) ∧
      ((∀ x ∈ cs, x.1.action = .refuse → x.1.admits x.2 = true) →
        grantAccess p a s =
          { recordTrips p a.handle cs s with
              ports := s.ports.set p
                { s.port p with
                  access := some { acc := a, stage := .storing (storeAddress s a) } } }))) ∧
  (∀ (p : PortId) (a : Access) (s : State) (l : Lock), a.cls = .releaseWrite → s.lock p = some l →
    l.window = a.handle → takingPart p a s ≠ [] →
    (l.timer = none ∨ ∃ r, 1 ≤ r ∧ l.timer = some (.running r)) →
    let cs := (takingPart p a s).map fun g => (g, checkedWord a g)
    let releasing : Vector (Option Lock) 4 := s.locks.set p (some
      { l with
        phase := .releasing,
        timer := match l.timer with
          | none => none
          | some (.running r) => some (.stopped r 0)
          | some (.stopped r e) => some (.stopped r e) })
    (a.size = .one ∨ a.size = .two →
      grantAccess p a s =
        { s with
          locks := releasing,
          ports := s.ports.set p
            { s.port p with access := some { acc := a, stage := .merging (takingPart p a s) } } }) ∧
    (a.size = .four ∨ a.size = .eight →
      ((∃ x ∈ cs, x.1.action = .refuse ∧ x.1.admits x.2 = false) →
        grantAccess p a s =
          { s.answeredAt p a.cls a.addr .guard (some a.handle.index) [] with
            grant := none, locks := s.locks.set p (some { l with phase := .heldByPort }) }) ∧
      ((∀ x ∈ cs, x.1.action = .refuse → x.1.admits x.2 = true) →
        grantAccess p a s =
          { recordTrips p a.handle cs s with
              locks := releasing,
              ports := s.ports.set p
                { s.port p with
                  access := some { acc := a, stage := .storing (storeAddress s a) } } }))) ∧
  (∀ (a : Access) (g : HeldGuard),
    (g.offset = a.offset → checkedWord a g = a.data.setWidth 32) ∧
    (g.offset = a.offset + 4 → checkedWord a g = (a.data >>> 32).setWidth 32)) ∧
  ∀ (p : PortId) (h : Handle) (cs : List (HeldGuard × Word)) (s : State),
    (cs.map fun x => x.1.index).Nodup →
    let trips : HeldGuard × Word → Prop := fun x => x.1.action = .report ∧ x.1.admits x.2 = false
    recordTrips p h cs s =
      { s with guards := (recordTrips p h cs s).guards, events := (recordTrips p h cs s).events } ∧
    ((∃ x ∈ cs, trips x) → (recordTrips p h cs s).events = s.events.raised .guardTrip) ∧
    ((∀ x ∈ cs, ¬trips x) → recordTrips p h cs s = s) ∧
    ∀ i, (s.guard i = none → (recordTrips p h cs s).guard i = none) ∧
      ∀ k, s.guard i = some k →
        (∀ x ∈ cs, x.1.index = i → trips x → k.window = h → k.offset = x.1.offset →
          (recordTrips p h cs s).guard i = some
            { k with
              trip := some
                { value := x.2, port := p,
                  count := match k.trip with
                    | none => 1
                    | some t => if t.count < 255 then t.count + 1 else 255 } }) ∧
        ((∀ x ∈ cs, x.1.index = i → trips x → ¬(k.window = h ∧ k.offset = x.1.offset)) →
          (recordTrips p h cs s).guard i = some k)

/-- The completion of a read returns the covered bytes of the store with OK, or zero data with STORE_ERROR and
its fault, and gives the store port up; it marks nothing and takes no lock (R31, R32).  The completion of a
WRITE changes exactly the covered bytes of the store, hands its line to the change tracker if its window was
TRACKED or PAIRED at the lookup, answers OK and gives the store port up; a completion with an error leaves the
covered bytes unknown (the model's free values, log 10) and every other byte as it was, and marks the line all
the same; a RELEASE_WRITE, with an error or without, empties its lock entry and sends the unlock notice in the
same event, and one whose entry a break or a restart has emptied meanwhile writes, marks and answers all the
same, and releases nothing (R13, R31, R33, R35, R46, R123, R124, R135). -/
def Obligations.StoreAccessesComplete : Prop :=
  (∀ (p : PortId) (a : Access) (x : Nat) (s : State), s.inReset = none → s.grant = some (.port p) →
     (s.port p).access = some { acc := a, stage := .storing (some x) } → classReads a.cls = true →
     s.inStore x (sizeBytes a.size) = true →
     exec (.storeAccessDone false) s =
       .next (arbitrate { s.answeredAt p a.cls a.addr .ok (some a.handle.index)
           (Memory.read s.store x (sizeBytes a.size)) with grant := none }) ∧
     exec (.storeAccessDone true) s =
       .next (arbitrate { s.answeredAt p a.cls a.addr .storeError (some a.handle.index)
           (List.replicate (sizeBytes a.size) 0) with grant := none })) ∧
  ∀ (p : PortId) (a : Access) (x : Nat) (s : State), s.inReset = none → s.grant = some (.port p) →
    (s.port p).access = some { acc := a, stage := .storing (some x) } →
    s.inStore x (sizeBytes a.size) = true →
    let bs := natToBytes a.data.toNat (sizeBytes a.size)
    let mark : State → State := fun u =>
      if a.record.kind = .tracked ∨ a.record.kind = .paired then markLine a.handle a.line u else u
    let m := mark { s with store := Memory.write s.store x bs }
    let f := mark
      { s with store := Memory.write s.store x (unstatedBytes s.fresh x (sizeBytes a.size)),
               fresh := s.fresh + 1 }
    (a.cls = .write ∨ a.cls = .releaseWrite ∧
        (∀ l, s.lock p = some l → l.window = a.handle → l.phase ≠ .releasing) →
      exec (.storeAccessDone false) s =
        .next (arbitrate { m.answeredAt p a.cls a.addr .ok (some a.handle.index) [] with
          grant := none }) ∧
      exec (.storeAccessDone true) s =
        .next (arbitrate { f.answeredAt p a.cls a.addr .storeError (some a.handle.index) [] with
          grant := none })) ∧
    (a.cls = .releaseWrite → ∀ l, s.lock p = some l → l.window = a.handle → l.phase = .releasing →
      exec (.storeAccessDone false) s =
        .next (arbitrate { m.answeredAt p a.cls a.addr .ok (some a.handle.index) [] with
          grant := none,
          locks := s.locks.set p none,
          continues := if s.engine.state = .held ∧ s.pausedOn a.handle = true then s.continues + 1
                       else s.continues }) ∧
      exec (.storeAccessDone true) s =
        .next (arbitrate { f.answeredAt p a.cls a.addr .storeError (some a.handle.index) [] with
          grant := none,
          locks := s.locks.set p none,
          continues := if s.engine.state = .held ∧ s.pausedOn a.handle = true then s.continues + 1
                       else s.continues })) ∧
    (∀ y vs, vs.length = sizeBytes a.size → (y < x ∨ x + sizeBytes a.size ≤ y) →
      Memory.byte (Memory.write s.store x vs) y = Memory.byte s.store y) ∧
    (StoreCanonical s → Memory.read (Memory.write s.store x bs) x (sizeBytes a.size) = bs)

/-- The hand-over of a write at the change tracker: nothing for a slot freed or filled again, for a PLAIN
window or a VIEW, for a WHOLE set and for a line already in D; otherwise the line goes into D at its place with
one mark, or with no mark free D becomes WHOLE, its marks return and POOL_OVERFLOW is raised (R46, R47); a line
at or above the window's line count is treated alike (the model's choice, log 34). The pool urgency flag after
a free count: set at or below URGE_ON, clear at or above URGE_OFF, kept strictly between; it is compared in the
event that sets the count (R53). -/
def Obligations.MarkingMovesDirtySetAndUrgency : Prop :=
  (∀ (h : Handle) (n : Nat) (s : State),
     (s.window? h = none → markLine h n s = s) ∧
     ∀ w, s.window? h = some w →
       (w.kind = .plain ∨ w.kind = .view → markLine h n s = s) ∧
       (w.dirty? = some .whole → markLine h n s = s) ∧
       ∀ l, w.dirty? = some (.lines l) →
         (n ∈ l → markLine h n s = s) ∧
         (n ∉ l → 0 < s.free →
           markLine h n s =
             { s with
               slots := s.slots.set h.index
                 { s.slot h.index with win := some (w.setDirty (.lines (insertLine n l))) },
               free := s.free - 1,
               urgency := urgencyAfter s.engine.config.urgeOn s.engine.config.urgeOff (s.free - 1)
                 s.urgency } ∧
           (∀ m, m ∈ insertLine n l ↔ m = n ∨ m ∈ l) ∧ (insertLine n l).length = l.length + 1 ∧
           (l.Pairwise (· < ·) → (insertLine n l).Pairwise (· < ·))) ∧
         (n ∉ l → s.free = 0 →
           markLine h n s =
             { s with
               slots := s.slots.set h.index { s.slot h.index with win := some (w.setDirty .whole) },
               free := l.length,
               urgency := urgencyAfter s.engine.config.urgeOn s.engine.config.urgeOff l.length s.urgency,
               events := s.events.raised .poolOverflow })) ∧
  (∀ (n : Nat) (s : State),
    (setFree n s).free = n ∧
    (n ≤ s.engine.config.urgeOn → (setFree n s).urgency = true) ∧
    (s.engine.config.urgeOn < s.engine.config.urgeOff → s.engine.config.urgeOff ≤ n →
      (setFree n s).urgency = false) ∧
    (s.engine.config.urgeOn < n → n < s.engine.config.urgeOff → (setFree n s).urgency = s.urgency)) ∧
  ∀ (n : Nat) (s : State), setFree n s = { s with free := n, urgency := (setFree n s).urgency }

/-- A merging read that completes is followed by the guard check of the word as the write would leave it: a
REFUSE guard out of range answers GUARD and gives the store port back, and otherwise the trips are recorded
and the store write goes out under the same grant; with an error no check is made, the line is marked and the
access is answered STORE_ERROR; a RELEASE_WRITE refused so keeps its lock, its timer running on as though it
had not been stopped, or loses it at once when the time it stood stopped is at least what was left; one that is
not refused goes on to the store with its lock RELEASING, and one whose merging read fails releases it with the
unlock notice; where a break has emptied its entry meanwhile, a RELEASE_WRITE is judged as a WRITE is: a refusal
restores nothing, a failed read releases nothing, and no notice is sent (R30, R31, R123, R124, R125, R140, R142,
R143).  The checked word is the word read with the written bytes
put in their positions (R140). -/
def Obligations.MergingReadIsJudged : Prop :=
  (∀ (a : Access) (b0 b1 b2 b3 : Byte) (i : Nat), i < 4 →
     (a.size = .one →
       (mergedWord a [b0, b1, b2, b3]).extractLsb' (8 * i) 8 =
         if i = a.offset % 4 then a.data.extractLsb' 0 8 else [b0, b1, b2, b3].getD i 0) ∧
     (a.size = .two → a.offset % 2 = 0 →
       (mergedWord a [b0, b1, b2, b3]).extractLsb' (8 * i) 8 =
         if i / 2 = a.offset % 4 / 2 then a.data.extractLsb' (8 * (i % 2)) 8
         else [b0, b1, b2, b3].getD i 0)) ∧
  (∀ (p : PortId) (a : Access) (gs : List HeldGuard) (x elapsed : Nat) (s : State), s.inReset = none →
     s.grant = some (.port p) → (s.port p).access = some { acc := a, stage := .merging gs } →
     a.cls = .write ∨ a.cls = .releaseWrite ∧
       (∀ l, s.lock p = some l → l.window = a.handle → l.phase ≠ .releasing) → storeAddress s a = some x → s.inStore (x - a.offset % 4) 4 = true →
     let v := mergedWord a (Memory.read s.store (x - a.offset % 4) 4)
     ((∃ g ∈ gs, g.action = .refuse ∧ g.admits v = false) →
       exec (.mergingReadDone false elapsed) s =
         .next (arbitrate { s.answeredAt p a.cls a.addr .guard (some a.handle.index) [] with
           grant := none })) ∧
     ((∀ g ∈ gs, g.action = .refuse → g.admits v = true) →
       exec (.mergingReadDone false elapsed) s =
         .next { recordTrips p a.handle (gs.map fun g => (g, v)) s with
           ports := s.ports.set p
             { s.port p with access := some { acc := a, stage := .storing (some x) } } }) ∧
     exec (.mergingReadDone true elapsed) s =
       .next (arbitrate { (if a.record.kind = .tracked ∨ a.record.kind = .paired then
             markLine a.handle a.line s else s).answeredAt p a.cls a.addr .storeError
           (some a.handle.index) [] with grant := none })) ∧
  ∀ (p : PortId) (a : Access) (gs : List HeldGuard) (x elapsed : Nat) (s : State) (l : Lock),
    s.inReset = none → s.grant = some (.port p) →
    (s.port p).access = some { acc := a, stage := .merging gs } → a.cls = .releaseWrite →
    storeAddress s a = some x → s.inStore (x - a.offset % 4) 4 = true →
    s.lock p = some l → l.window = a.handle → l.phase = .releasing →
    let v := mergedWord a (Memory.read s.store (x - a.offset % 4) 4)
    ((∀ g ∈ gs, g.action = .refuse → g.admits v = true) →
      exec (.mergingReadDone false elapsed) s =
        .next { recordTrips p a.handle (gs.map fun g => (g, v)) s with
          ports := s.ports.set p
            { s.port p with access := some { acc := a, stage := .storing (some x) } } }) ∧
    exec (.mergingReadDone true elapsed) s =
      .next (arbitrate { (if a.record.kind = .tracked ∨ a.record.kind = .paired then
            markLine a.handle a.line s else s).answeredAt p a.cls a.addr .storeError
          (some a.handle.index) [] with
        grant := none,
        locks := s.locks.set p none,
        continues := if s.engine.state = .held ∧ s.pausedOn a.handle = true then s.continues + 1
                     else s.continues }) ∧
    ((∃ g ∈ gs, g.action = .refuse ∧ g.admits v = false) →
      (∀ r e, l.timer = some (.stopped r e) → e + elapsed < r →
        exec (.mergingReadDone false elapsed) s =
          .next (arbitrate { s.answeredAt p a.cls a.addr .guard (some a.handle.index) [] with
            grant := none,
            locks := s.locks.set p (some
              { l with phase := .heldByPort, timer := some (.running (r - (e + elapsed))) }) })) ∧
      (l.timer = none →
        exec (.mergingReadDone false elapsed) s =
          .next (arbitrate { s.answeredAt p a.cls a.addr .guard (some a.handle.index) [] with
            grant := none,
            locks := s.locks.set p (some { l with phase := .heldByPort }) })) ∧
      ∀ r e, l.timer = some (.stopped r e) → r ≤ e + elapsed →
        exec (.mergingReadDone false elapsed) s =
          .next (arbitrate { { s with events := s.events.raised .lockBroken }.answeredAt p a.cls a.addr
              .guard (some a.handle.index) [] with
            grant := none,
            locks := s.locks.set p none,
            continues := if s.engine.state = .held ∧ s.pausedOn l.window = true then s.continues + 1
                         else s.continues }))

/-- A grant decision: the publish unit first while the engine priority condition holds, then the first waiting
port in circular order after the pointer, which is set to it, then the publish unit, and otherwise none; no
decision is made while the port is held (R40 to R42).  A granted access of any class that its checks let pass
keeps the store port, a read and a write that no guard takes part in for the store itself; one that check 6 or 7
refuses is answered and gives the port back, and the decision is made again (R29, R30, R40, R41). -/
def Obligations.GrantDecisionFollowsTheOrder : Prop :=
  ∀ s : State,
    (s.grant ≠ none → arbitrate s = s) ∧
    (s.grant = none →
      ((s.urgency = true ∨ s.engine.state = .urgent ∨ s.engine.state = .drain) →
        s.pubUnit.wantsStore = true → arbitrate s = { s with grant := some .engine }) ∧
      (¬((s.urgency = true ∨ s.engine.state = .urgent ∨ s.engine.state = .drain) ∧
          s.pubUnit.wantsStore = true) →
        (∀ (k : Nat) (a : Access), 1 ≤ k → k ≤ 4 →
          s.waitingAccess (s.pointer + Fin.ofNat 4 k) = some a →
          (∀ j, 1 ≤ j → j < k → s.waitingAccess (s.pointer + Fin.ofNat 4 j) = none) →
          lockCheck (s.pointer + Fin.ofNat 4 k) a s = none → classReads a.cls = true →
          ∃ t, arbitrate s = t ∧ t.grant = some (.port (s.pointer + Fin.ofNat 4 k)) ∧
            t.pointer = s.pointer + Fin.ofNat 4 k ∧
            (t.port (s.pointer + Fin.ofNat 4 k)).access =
              some { acc := a, stage := .storing (storeAddress s a) }) ∧
        (∀ (k : Nat) (a : Access), 1 ≤ k → k ≤ 4 →
          let p : PortId := s.pointer + Fin.ofNat 4 k
          let g : State := grantAccess p a { s with grant := some (.port p), pointer := p }
          s.waitingAccess p = some a →
          (∀ j, 1 ≤ j → j < k → s.waitingAccess (s.pointer + Fin.ofNat 4 j) = none) →
          g.pointer = p ∧
          (g.grant = some (.port p) ∧ arbitrate s = g ∨ g.grant = none ∧ arbitrate s = arbitrate g) ∧
          (∀ c, lockCheck p a s = some c →
            g = { s.answeredAt p a.cls a.addr c
                    (if c = .miss ∨ c = .portOff then none else some a.handle.index)
                    (zeroData a.cls a.size) with
                  grant := none, pointer := p }) ∧
          (a.cls = .write ∨ a.cls = .releaseWrite → lockCheck p a s = none →
            let cs := (takingPart p a s).map fun y => (y, checkedWord a y)
            (takingPart p a s = [] →
              g.grant = some (.port p) ∧
                (g.port p).access = some { acc := a, stage := .storing (storeAddress s a) }) ∧
            (takingPart p a s ≠ [] → (a.size = .one ∨ a.size = .two) →
              g.grant = some (.port p) ∧
                (g.port p).access = some { acc := a, stage := .merging (takingPart p a s) }) ∧
            (a.size = .four ∨ a.size = .eight → (∃ y ∈ cs, y.1.action = .refuse ∧ y.1.admits y.2 = false) →
              g.grant = none ∧ (g.port p).access = none ∧ 
                (g.port p).response = some { code := .guard, bytes := [] }))) ∧
        ((∀ p, s.waitingAccess p = none) → s.pubUnit.wantsStore = true →
          arbitrate s = { s with grant := some .engine }) ∧
        ((∀ p, s.waitingAccess p = none) → s.pubUnit.wantsStore = false → arbitrate s = s)))

/-! ### Publishing (ch. 4, 5, 7) -/

/-- The completion of a line copy's store read keeps the bytes it read and places the write of the same line,
in the bank fixed as idle, as a request (R40, R64).  A line boundary with a further line in the copy set: the
write has changed the idle bank's line and no other byte of the store, the copy position is past the line, and
the next line is being read, and requests that the boundary was taken before wait for that line's boundary; with
the window locked the unit pauses there and the engine enters HELD instead (R64 to R66, R130).  The pass has made
a line copy by one for the purpose REGULAR alone (R95; that a copy by an adopting publish is not counted: log
17). -/
def Obligations.LineCopiesGoOnOrPause : Prop :=
  (∀ (s : State) (r : PublishRecord) (n : Nat) (w : Window) (p : Paired), s.inReset = none →
     s.grant = some .engine → s.pubUnit = .reading r n → s.paired? r.handle = some (w, p) →
     s.inStore (p.live.toNat + n * w.lineSize.bytes) w.lineSize.bytes = true →
     exec (.lineCopyReadDone false) s =
       .next (arbitrate { s with
         grant := none,
         pubUnit := .writing r n
           (Memory.read s.store (p.live.toNat + n * w.lineSize.bytes) w.lineSize.bytes) })) ∧
  ∀ (s : State) (r : PublishRecord) (n : Nat) (bs : List Byte) (w : Window) (p : Paired) (k : Working),
    s.inReset = none → s.grant = some .engine → s.pubUnit = .writing r n bs →
    s.paired? r.handle = some (w, p) → p.work = some k →
    s.inStore (p.bankOffset r.idle + n * w.lineSize.bytes) bs.length = true →
    let p' : Paired := { p with work := some { k with pos := n + 1 } }
    let t : State := { s with
      grant := none,
      store := Memory.write s.store (p.bankOffset r.idle + n * w.lineSize.bytes) bs,
      slots := s.slots.set r.handle.index
        { s.slot r.handle.index with win := some { w with body := .paired p' } } }
    let e : Engine :=
      if s.engine.purpose = some .regular then
        { s.engine with working := s.engine.working.map fun v => { v with copied := true } }
      else s.engine
    (∀ m, r.abandons = [] → r.suspend = false → s.isLocked r.handle = false → nextCopyLine w p' = some m →
      exec (.lineBoundary ⟨false, false⟩) s =
        .next (arbitrate { t with pubUnit := .reading r m, engine := e })) ∧
    (∀ m, r.waited = 0 → r.suspendWaited = false → s.isLocked r.handle = false →
      nextCopyLine w p' = some m →
      exec (.lineBoundary ⟨false, true⟩) s =
        .next (arbitrate { t with
          pubUnit := .reading { r with waited := r.abandons.length, suspendWaited := r.suspend } m,
          engine := e })) ∧
    (∀ early, r.abandons = [] → r.suspend = false → s.isLocked r.handle = true →
      exec (.lineBoundary ⟨false, early⟩) s =
        .next (arbitrate { t with
          pubUnit := .paused r,
          engine := { e with
            state := .held,
            heldFrom := some (if s.engine.state = .urgent then .urgent else .run) } })) ∧
    ∀ y, (y < p.bankOffset r.idle + n * w.lineSize.bytes ∨
        p.bankOffset r.idle + n * w.lineSize.bytes + bs.length ≤ y) →
      Memory.byte t.store y = Memory.byte s.store y

/-- The unit's action at a line boundary is the first of these: an abandon, with the cause of the first one
requested, or the freeing that a RETIRE asked for; a suspension, which keeps W; a pause on a locked window;
the next line of the copy set; the flip (R65, R72, R75).  A boundary taken before the requests that come with it
goes on without them: they wait for the boundary of the line it begins, at which they are acted on, and after its
flip a RETIRE alone finds anything to do, and frees the window (R66, R156); on a locked window they are carried
out all the same.  The next line is the lowest of the copy set W ∪ C at
or above the copy position, and the copy set is every line of the window when either is WHOLE (R63). -/
def Obligations.BoundaryActsInOrder : Prop :=
  (∀ (w : Window) (p : Paired) (k : Working), p.work = some k →
     (∀ n, nextCopyLine w p = some n ↔
       inCopySet w k.set p.carry n ∧ k.pos ≤ n ∧ ∀ m, inCopySet w k.set p.carry m → k.pos ≤ m → n ≤ m) ∧
     (nextCopyLine w p = none ↔ ∀ m, inCopySet w k.set p.carry m → m < k.pos)) ∧
  ∀ (r : PublishRecord) (w : Window) (p : Paired) (k : Working) (s : State),
    s.paired? r.handle = some (w, p) → p.work = some k →
    (∀ c cs, r.abandons = c :: cs → AbandonCause.retired ∉ r.abandons →
      ∃ t, boundary false r s = (t, some (.abandoned c)) ∧ t.pubUnit = .ready ∧
        t.paired? r.handle =
          some ({ w with body := .paired { p with dirty := p.dirty.union k.set, work := none } },
            { p with dirty := p.dirty.union k.set, work := none }) ∧
        t.free = s.free + (p.dirty.marks + k.set.marks - (p.dirty.union k.set).marks) ∧
        t.events = s.events ∧ t.store = s.store) ∧
    (AbandonCause.retired ∈ r.abandons →
      ∃ t, boundary false r s = (t, some (.abandoned .retired)) ∧ t.pubUnit = .ready ∧
        t.window? r.handle = none ∧ t.cmd.busy = false ∧ t.cmd.status = .done) ∧
    (r.abandons = [] → r.suspend = true →
      boundary false r s = ({ s with pubUnit := .ready }, some .suspended)) ∧
    (r.abandons = [] → r.suspend = false → s.isLocked r.handle = true →
      boundary false r s = ({ s with pubUnit := .paused r }, some .paused)) ∧
    (r.abandons = [] → r.suspend = false → s.isLocked r.handle = false →
      (∀ n, nextCopyLine w p = some n →
        boundary false r s = ({ s with pubUnit := .reading r n }, none)) ∧
      (nextCopyLine w p = none →
        ∃ t, boundary false r s = (t, some .flipped) ∧ t.pubUnit = .ready ∧
          t.paired? r.handle =
            some ({ w with body := .paired { p with
                current := r.idle, gen := if p.gen = 65535 then 1 else p.gen + 1, carry := k.set,
                work := none } },
              { p with current := r.idle, gen := if p.gen = 65535 then 1 else p.gen + 1,
                       carry := k.set, work := none }) ∧
          t.free = s.free + p.carry.marks ∧ t.events = s.events ∧ t.store = s.store)) ∧
    (s.isLocked r.handle = true → boundary true r s = boundary false r s) ∧
    (s.isLocked r.handle = false → r.waited = r.abandons.length → r.suspendWaited = r.suspend →
      r.abandons ≠ [] ∨ r.suspend = true → boundary true r s = boundary false r s) ∧
    (s.isLocked r.handle = false → r.waited = 0 → r.suspendWaited = false →
      (∀ n, nextCopyLine w p = some n →
        boundary true r s =
          ({ s with
             pubUnit := .reading { r with waited := r.abandons.length, suspendWaited := r.suspend } n },
            none)) ∧
      (nextCopyLine w p = none →
        (AbandonCause.retired ∉ r.abandons →
          boundary true r s =
            ({ s.flipped r.handle w p k r.idle with pubUnit := .ready }, some .flipped)) ∧
        (AbandonCause.retired ∈ r.abandons →
          ∃ t, boundary true r s = (t, some .flipped) ∧ t.pubUnit = .ready ∧
            t.window? r.handle = none ∧ t.cmd.busy = false ∧ t.cmd.status = .done)))

/-- The boundary of the last line of the last entry of a SINGLE pass: the window flips, the pass ends with its
report and PASS_DONE, COMPLETE if it skipped nothing, and the engine enters IDLE with ENGINE_IDLE (R68, R85,
R98, R99). -/
def Obligations.LastBoundaryFlipsAndEndsThePass : Prop :=
  ∀ (s : State) (r : PublishRecord) (n : Nat) (bs : List Byte) (w : Window) (p : Paired) (k : Working)
    (m : RegularRun) (v : WorkReport), s.inReset = none → s.grant = some .engine →
    s.pubUnit = .writing r n bs → r.abandons = [] → r.suspend = false →
    s.paired? r.handle = some (w, p) → p.work = some k → s.isLocked r.handle = false →
    s.inStore (p.bankOffset r.idle + n * w.lineSize.bytes) bs.length = true →
    nextCopyLine w { p with work := some { k with pos := n + 1 } } = none →
    s.engine.state = .run → s.engine.purpose = some .regular → s.engine.config.mode = .single →
    s.engine.config.autoUrgent = false → s.engine.run = some m →
    s.engine.regularSeq.length = m.pos + 1 → s.engine.working = some v → s.engine.context = none →
    s.engine.restartPass = false → s.engine.regularPending = false → s.engine.urgentRun = none →
    s.engine.urgentRequested = false → s.engine.drainQueue = [] → (∀ q, s.waitingAccess q = none) →
    ∀ early, ∃ t, exec (.lineBoundary ⟨false, early⟩) s = .next t ∧ t.pubUnit = .ready ∧ t.grant = none ∧
      t.store = Memory.write s.store (p.bankOffset r.idle + n * w.lineSize.bytes) bs ∧
      t.paired? r.handle =
        some ({ w with body := .paired { p with
            current := r.idle, gen := bump p.gen, carry := k.set, work := none } },
          { p with current := r.idle, gen := bump p.gen, carry := k.set, work := none }) ∧
      t.free = s.free + p.carry.marks ∧ t.engine.state = .idle ∧ t.engine.run = none ∧
      t.engine.working = none ∧ t.engine.purpose = none ∧
      t.engine.passReport =
        { number := v.number, status := some (if v.skipped = 0 then .complete else .partly),
          published := v.published + 1, skipped := v.skipped, vacant := v.vacant } ∧
      t.isPending .passDone = true ∧ t.isPending .engineIdle = true ∧ t.cmd = s.cmd

/-- A line copy that fails, at its read or at its write, in the last entry of a SINGLE pass: the fault record
is offered and PUBLISH_FAULT raised, the publish is abandoned with W merged into D, the window's bit is set
in the skipped mask, and the pass ends PARTIAL; a failed read writes nothing, and a failed write changes no
byte outside its line (R74, R98, R99). -/
def Obligations.FailedCopyAbandonsThePublish : Prop :=
  ∀ (s : State) (r : PublishRecord) (n : Nat) (w : Window) (p : Paired) (k : Working)
    (m : RegularRun) (v : WorkReport), s.inReset = none → s.grant = some .engine → r.abandons = [] →
    s.paired? r.handle = some (w, p) → p.work = some k →
    s.engine.state = .run → s.engine.purpose = some .regular → s.engine.config.mode = .single →
    s.engine.config.autoUrgent = false → s.engine.run = some m →
    s.engine.regularSeq.length = m.pos + 1 → s.engine.working = some v → s.engine.context = none →
    s.engine.restartPass = false → s.engine.regularPending = false → s.engine.urgentRun = none →
    s.engine.urgentRequested = false → s.engine.drainQueue = [] → (∀ q, s.waitingAccess q = none) →
    let after : State → Bool → Nat → Prop := fun t write addr =>
      t.pubUnit = .ready ∧ t.grant = none ∧
      t.paired? r.handle =
        some ({ w with body := .paired { p with dirty := p.dirty.union k.set, work := none } },
          { p with dirty := p.dirty.union k.set, work := none }) ∧
      t.events.capture = some
        (s.events.capture.getD (.lineCopy (BitVec.ofNat 32 addr) write r.handle.index)) ∧
      t.isPending .publishFault = true ∧ t.isPending .passDone = true ∧ t.engine.state = .idle ∧
      t.engine.passReport =
        { number := v.number, status := some .partly, published := v.published,
          skipped := v.skipped ||| BitVec.twoPow 32 r.handle.index.val, vacant := v.vacant }
    (s.pubUnit = .reading r n →
      s.inStore (p.live.toNat + n * w.lineSize.bytes) w.lineSize.bytes = true →
      ∃ t, exec (.lineCopyReadDone true) s = .next t ∧
        after t false (p.live.toNat + n * w.lineSize.bytes) ∧ t.store = s.store) ∧
    ∀ bs early, s.pubUnit = .writing r n bs →
      s.inStore (p.bankOffset r.idle + n * w.lineSize.bytes) bs.length = true →
      ∃ t, exec (.lineBoundary ⟨true, early⟩) s = .next t ∧
        after t true (p.bankOffset r.idle + n * w.lineSize.bytes) ∧
        ∀ y, (y < p.bankOffset r.idle + n * w.lineSize.bytes ∨
            p.bankOffset r.idle + n * w.lineSize.bytes + bs.length ≤ y) →
          Memory.byte t.store y = Memory.byte s.store y

/-- A continue that the unit takes PAUSED on an unlocked window takes the engine back to its held-from state
and starts the copy of the next line; with no further line it flips the window, and the entry is counted
published and ends (R66, R68, R98, R111, R131); on a window locked again, or with no publish paused, it has no
effect but to be taken (R66, R131); one that was not sent has none (the model's choice, log 23). -/
def Obligations.ContinueResumesThePublish : Prop :=
  (∀ (s : State) (r : PublishRecord) (w : Window) (p : Paired), s.inReset = none → 0 < s.continues →
    s.pubUnit = .paused r → s.paired? r.handle = some (w, p) →
    (∀ m f, s.isLocked r.handle = false → s.engine.heldFrom = some f → nextCopyLine w p = some m →
      exec .continuePublish s =
        .next (arbitrate { s with
          continues := s.continues - 1,
          pubUnit := .reading r m,
          engine := { s.engine with
            state := (match f with | .run => .run | .urgent => .urgent), heldFrom := none } })) ∧
    (∀ k f, p.work = some k → s.isLocked r.handle = false → s.engine.heldFrom = some f →
      nextCopyLine w p = none →
      let g : Engine → State := fun e =>
        { s.flipped r.handle w p k r.idle with
          continues := s.continues - 1, pubUnit := .ready,
          engine := { e with
            state := (match f with | .run => .run | .urgent => .urgent), heldFrom := none,
            purpose := none } }
      let publish : WorkReport → WorkReport := fun v => { v with published := v.published + 1 }
      (s.engine.purpose = some .regular → s.engine.restartPass = false →
        exec .continuePublish s =
          .next (arbitrate (boundaryChoice (entryEnds
            (g { s.engine with working := s.engine.working.map publish }))))) ∧
      ∀ u, s.engine.purpose = some .urgent → s.engine.restartUrgent = false →
        s.engine.urgentRun = some u →
        exec .continuePublish s =
          .next (arbitrate (boundaryChoice (urgentEntryEnds (g { s.engine with
            urgentRun := some { u with work := publish u.work },
            context := s.engine.context.map fun c =>
              if c.outcome = .adopted then { c with outcome := .published } else c }))))) ∧
    (s.isLocked r.handle = true →
      exec .continuePublish s = .next { s with continues := s.continues - 1 })) ∧
  (∀ s : State, s.inReset = none → 0 < s.continues → (∀ r, s.pubUnit ≠ .paused r) →
    exec .continuePublish s = .next { s with continues := s.continues - 1 }) ∧
  ∀ s : State, s.inReset = none → s.continues = 0 → exec .continuePublish s = .next s

/-! ### The suspended context, urgent runs, drains and sub-runs (ch. 5, 6) -/

/-- At the line boundary of a publish that is to be suspended, and at once when it is held, W and the copy
position stay in the record, the entry becomes the suspended context, WAITING, and the urgent run begins; an
urgent entry that names the context's window adopts it and goes on with its W (R110, R111, R113).  Where the
window boundary choice comes to the context, one PUBLISHED is counted, one LOST or freed is skipped, one
ADOPTED is left, and one WAITING is published on, or held where its window is locked (R114); one WAITING whose
handle has come round to a window that is not PAIRED is skipped as one freed (the model's choice, log 27).  A
publish whose last boundary was taken before the suspend flips: its entry is counted, no context is made, and the
urgent run begins all the same (R66, R110).  A counted entry
ends: the pass goes on behind it, or ends with its last one (R95, R97, R99).  The adopter's report decides an
ADOPTED context (R113). -/
def Obligations.ContextIsSetAsideAdoptedAndResumed : Prop :=
  (∀ (s : State) (r : PublishRecord) (w : Window) (p : Paired) (k : Working) (m : RegularRun) (u : Handle)
     (l : List Handle), s.paired? r.handle = some (w, p) → p.work = some k →
     s.engine.purpose = some .regular → s.engine.run = some m → s.engine.urgentRun = none →
     s.engine.urgentList = u :: l →
     let e : CtxOutcome → Engine := fun o =>
       { s.engine with
         state := .urgent, heldFrom := none, purpose := some .urgent, urgentRequested := false,
         urgentCounter := bump s.engine.urgentCounter,
         urgentRun := some
           { pos := 0,
             work := { number := bump s.engine.urgentCounter, published := 0, skipped := 0, vacant := 0,
                       copied := false } },
         context := some { handle := r.handle, pos := m.pos, outcome := o } }
     (∀ n bs, s.inReset = none → s.grant = some .engine → s.pubUnit = .writing r n bs → r.abandons = [] →
       r.suspend = true → s.engine.state = .run → s.engine.urgentRequested = true →
       s.inStore (p.bankOffset r.idle + n * w.lineSize.bytes) bs.length = true →
       let p' : Paired := { p with work := some { k with pos := n + 1 } }
       let g : State := { s with
         grant := none,
         store := Memory.write s.store (p.bankOffset r.idle + n * w.lineSize.bytes) bs,
         slots := s.slots.set r.handle.index
           { s.slot r.handle.index with win := some { w with body := .paired p' } } }
       let f : CtxOutcome → Engine := fun o =>
         { e o with working := s.engine.working.map fun v => { v with copied := true } }
       (∀ v q x, u ≠ r.handle → s.paired? u = some (v, q) → s.isLocked u = false → q.work = none →
         nextCopyLine v q.take = some x →
         exec (.lineBoundary ⟨false, false⟩) s =
           .next (arbitrate { g.publishing u v q x with engine := f .waiting })) ∧
       (∀ v q x y, u ≠ r.handle → s.paired? u = some (v, q) → s.isLocked u = false → q.work = none →
         nextCopyLine v q.take = some x → nextCopyLine w p' = none → s.isLocked r.handle = false →
         r.waited = 0 → r.suspendWaited = false → s.engine.restartPass = false →
         s.engine.config.mode ≠ .stepped → m.pos + 1 < s.engine.regularSeq.length →
         s.engine.context = none → s.engine.working = some y →
         exec (.lineBoundary ⟨false, true⟩) s =
           .next (arbitrate { (g.flipped r.handle w p k r.idle).publishing u v q x with
             engine := { e .waiting with
               context := none,
               run := some { pos := m.pos + 1, remaining := m.remaining.map fun a => a - 1 },
               working := some { y with published := y.published + 1, copied := true } } })) ∧
       ∀ x, u = r.handle → s.isLocked u = false → nextCopyLine w p' = some x →
         exec (.lineBoundary ⟨false, false⟩) s =
           .next (arbitrate { g with
             pubUnit := .reading
               { handle := r.handle, idle := p.current.other, abandons := [], suspend := false } x,
             engine := f .adopted })) ∧
     ∀ cnt v q x, s.accepts → s.engine.state = .held → s.pubUnit = .paused r →
       s.engine.config.autoUrgent = false → s.engine.urgentRequested = false → u ≠ r.handle →
       s.paired? u = some (v, q) → s.isLocked u = false → q.work = none →
       nextCopyLine v q.take = some x →
       exec (.urgent cnt) s =
         .next (arbitrate { s.publishing u v q x with
           engine := e .waiting, cmd := s.cmd.completed codeUrgent cnt .done [] })) ∧
  (∀ (s : State) (c : SuspendedCtx), s.engine.urgentRun = none → s.engine.urgentRequested = false →
     s.engine.drainQueue = [] → s.engine.context = some c →
     let counted : (WorkReport → WorkReport) → State := fun f =>
       entryEnds { s with
         engine := { s.engine with context := none, working := s.engine.working.map f } }
     (c.outcome = .published →
       choiceStep s = (counted fun v => { v with published := v.published + 1 }, true)) ∧
     (c.outcome = .lost ∨ c.outcome = .waiting ∧ s.paired? c.handle = none →
       choiceStep s =
         (counted fun v => { v with skipped := v.skipped ||| BitVec.twoPow 32 c.handle.index.val },
           true)) ∧
     (c.outcome = .adopted → choiceStep s = (s, false)) ∧
     ∀ w p k, c.outcome = .waiting → s.paired? c.handle = some (w, p) → p.work = some k →
       let r : PublishRecord :=
         { handle := c.handle, idle := p.current.other, abandons := [], suspend := false }
       (∀ n, s.isLocked c.handle = false → nextCopyLine w p = some n →
         choiceStep s =
           ({ s with
              pubUnit := .reading r n,
              engine := { s.engine with
                context := none, state := .run, heldFrom := none, purpose := some .regular } }, false)) ∧
       (s.isLocked c.handle = true →
         choiceStep s =
           ({ s with
              pubUnit := .paused r,
              engine := { s.engine with
                context := none, state := .held, heldFrom := some .run, purpose := some .regular } },
             false))) ∧
  (∀ (s : State) (m : RegularRun), s.engine.run = some m → s.engine.config.mode ≠ .stepped →
     let next : RegularRun := { pos := m.pos + 1, remaining := m.remaining.map fun a => a - 1 }
     (m.pos + 1 < s.engine.regularSeq.length →
       entryEnds s = { s with engine := { s.engine with run := some next } }) ∧
     ∀ v, s.engine.regularSeq.length ≤ m.pos + 1 → s.engine.working = some v →
       s.engine.config.autoUrgent = false →
       entryEnds s =
         { s with
           events := s.events.raised .passDone,
           engine := { s.engine with
             run := if s.engine.config.mode = .continuous ∧ s.engine.regularSeq ≠ [] ∧ v.copied = true
                    then some next else none,
             working := none,
             passReport :=
               { number := v.number, status := some (if v.skipped = 0 then .complete else .partly),
                 published := v.published, skipped := v.skipped, vacant := v.vacant } } }) ∧
  ∀ (s : State) (h : Handle) (c : SuspendedCtx), s.engine.context = some c → c.outcome = .adopted →
    let after : CtxOutcome → State := fun o =>
      { s with engine := { s.engine with context := some { c with outcome := o } } }
    conclude .drain h .flipped s = after .published ∧
      (∀ a, a = .storeError ∨ a = .retired ∨ a = .useq → conclude .drain h (.abandoned a) s = after .lost) ∧
      (s.engine.restartUrgent = false →
        conclude .urgent h .flipped s = urgentEntryEnds (after .published) ∧
          ∀ a, a = .storeError ∨ a = .retired →
            conclude .urgent h (.abandoned a) s = urgentEntryEnds (after .lost))

/-- The last boundary of the last entry of an urgent run: the window flips, the run ends with its report and
URGENT_DONE, COMPLETE if it skipped nothing, and the engine enters IDLE with ENGINE_IDLE (R111).  A USEQ during
an urgent run puts its list in place at once and asks the unit for an abandon; at the boundary W is merged
into D, or the window has flipped and the entry is counted published, where the last boundary was taken before
the abandon; the run ends ABORTED with its report and URGENT_DONE, and a new run begins, numbered one higher, over
the new list; a context that the ended publish had adopted is counted and dropped; a run over an empty list
ends at its beginning, COMPLETE (R66, R107, R111). -/
def Obligations.UrgentRunsEndAndUseqRestartsThem : Prop :=
  (∀ (s : State) (r : PublishRecord) (n : Nat) (bs : List Byte) (w : Window) (p : Paired) (k : Working)
     (u : UrgentRun), s.inReset = none → s.grant = some .engine → s.pubUnit = .writing r n bs →
     s.paired? r.handle = some (w, p) → p.work = some k →
     s.inStore (p.bankOffset r.idle + n * w.lineSize.bytes) bs.length = true →
     s.engine.state = .urgent → s.engine.purpose = some .urgent → s.engine.urgentRun = some u →
     s.engine.context = none → s.engine.urgentRequested = false → (∀ q, s.waitingAccess q = none) →
     (r.abandons = [] → r.suspend = false → s.isLocked r.handle = false →
       nextCopyLine w { p with work := some { k with pos := n + 1 } } = none →
       s.engine.restartUrgent = false → s.engine.urgentList.length = u.pos + 1 → s.engine.run = none →
       s.engine.regularPending = false → s.engine.drainQueue = [] →
       ∀ early, ∃ t, exec (.lineBoundary ⟨false, early⟩) s = .next t ∧ t.pubUnit = .ready ∧
         t.store = Memory.write s.store (p.bankOffset r.idle + n * w.lineSize.bytes) bs ∧
         t.paired? r.handle =
           some ({ w with body := .paired { p with
               current := r.idle, gen := bump p.gen, carry := k.set, work := none } },
             { p with current := r.idle, gen := bump p.gen, carry := k.set, work := none }) ∧
         t.engine =
           { s.engine with
             state := .idle, heldFrom := none, purpose := none, urgentRun := none,
             urgentReport :=
               { number := u.work.number,
                 status := some (if u.work.skipped = 0 then .complete else .partly),
                 published := u.work.published + 1, skipped := u.work.skipped,
                 vacant := u.work.vacant } } ∧
         t.events = (s.events.raised .urgentDone).raised .engineIdle ∧ t.cmd = s.cmd) ∧
     (AbandonCause.retired ∉ r.abandons → r.waited = 0 → r.suspendWaited = false →
       s.isLocked r.handle = false → s.engine.restartUrgent = true →
       nextCopyLine w { p with work := some { k with pos := n + 1 } } = none →
       exec (.lineBoundary ⟨false, true⟩) s =
         .next (arbitrate (boundaryChoice (beginUrgent { s.flipped r.handle w p k r.idle with
           grant := none, pubUnit := .ready,
           store := Memory.write s.store (p.bankOffset r.idle + n * w.lineSize.bytes) bs,
           events := s.events.raised .urgentDone,
           engine := { s.engine with
             heldFrom := none, purpose := none, restartUrgent := false, urgentRun := none,
             urgentReport := { number := u.work.number, status := some .aborted,
                               published := u.work.published + 1, skipped := u.work.skipped,
                               vacant := u.work.vacant } } })))) ∧
     (r.abandons = [.useq] → s.engine.restartUrgent = true → ∀ h l v q x, s.engine.urgentList = h :: l →
       h ≠ r.handle → s.paired? h = some (v, q) → s.isLocked h = false → q.work = none →
       nextCopyLine v q.take = some x →
       ∃ t, exec (.lineBoundary ⟨false, false⟩) s = .next t ∧
         t.paired? r.handle =
           some ({ w with body := .paired { p with dirty := p.dirty.union k.set, work := none } },
             { p with dirty := p.dirty.union k.set, work := none }) ∧
         t.pubUnit = .reading { handle := h, idle := q.current.other, abandons := [], suspend := false } x ∧
         t.engine =
           { s.engine with
             heldFrom := none, restartUrgent := false,
             urgentReport := { number := u.work.number, status := some .aborted,
                               published := u.work.published, skipped := u.work.skipped,
                               vacant := u.work.vacant },
             urgentCounter := bump s.engine.urgentCounter,
             urgentRun := some
               { pos := 0,
                 work := { number := bump s.engine.urgentCounter, published := 0, skipped := 0,
                           vacant := 0, copied := false } } } ∧
         t.events = s.events.raised .urgentDone)) ∧
  (∀ (cnt : BitVec 8) (s : State) (l : List Handle), s.accepts → cnt.toNat ≤ 4 →
     oprEntries s cnt.toNat = some l → s.engine.urgentRun ≠ none → s.engine.state = .urgent →
     let e : Engine := { s.engine with urgentList := l, restartUrgent := true }
     (∀ r n, s.pubUnit = .reading r n →
       exec (.useq cnt) s =
         .next (arbitrate { s with
           engine := e, pubUnit := .reading { r with abandons := r.abandons ++ [.useq] } n,
           cmd := s.cmd.completed codeUseq cnt .done [] })) ∧
     ∀ r n bs, s.pubUnit = .writing r n bs →
       exec (.useq cnt) s =
         .next (arbitrate { s with
           engine := e, pubUnit := .writing { r with abandons := r.abandons ++ [.useq] } n bs,
           cmd := s.cmd.completed codeUseq cnt .done [] })) ∧
  (∀ (s : State) (u : UrgentRun), s.engine.urgentRun = some u →
     let g : State := { s with
       events := s.events.raised .urgentDone,
       engine := { s.engine with
         restartUrgent := false, urgentRun := none,
         urgentReport := { number := u.work.number, status := some .aborted,
                           published := u.work.published, skipped := u.work.skipped,
                           vacant := u.work.vacant } } }
     restartUrgent false s = beginUrgent g ∧
       ∀ c, s.engine.context = some c →
         (c.outcome = .published →
           restartUrgent true s =
             beginUrgent (entryEnds { g with engine := { g.engine with
               context := none,
               working := s.engine.working.map fun v => { v with published := v.published + 1 } } })) ∧
         (c.outcome ≠ .published →
           restartUrgent true s =
             beginUrgent (entryEnds { g with engine := { g.engine with
               context := none,
               working := s.engine.working.map fun v =>
                 { v with skipped := v.skipped ||| BitVec.twoPow 32 c.handle.index.val } } }))) ∧
  ∀ s : State,
    (s.engine.urgentList ≠ [] →
      beginUrgent s =
        { s with engine := { s.engine with
            urgentRequested := false, urgentCounter := bump s.engine.urgentCounter,
            urgentRun := some
              { pos := 0,
                work := { number := bump s.engine.urgentCounter, published := 0, skipped := 0, vacant := 0,
                          copied := false } } } }) ∧
    (s.engine.urgentList = [] →
      beginUrgent s =
        { s with
          events := s.events.raised .urgentDone,
          engine := { s.engine with
            urgentRequested := false, urgentCounter := bump s.engine.urgentCounter, urgentRun := none,
            urgentReport := { number := bump s.engine.urgentCounter, status := some .complete,
                              published := 0, skipped := 0, vacant := 0 } } })

/-- A RETIRE with FLUSH in IDLE of a window with lines in D begins its drain publish (R115, R116).  The flip
that ends a drain publish frees the window CLEAN when D is empty by then, and publishes it once more when it is
not, its attempts unchanged (R116, R118).  A drain publish that fails, at its store read or at its store write,
is a drain failure, which changes no byte outside the line that a failed write covered: the first counts an
attempt and takes the window to the queue's tail, from where one alone in the queue starts afresh with its
merged D; the second frees it FLUSH_FAILED, with its marks (R74, R117, R118). -/
def Obligations.DrainsPublishFailAndFree : Prop :=
  (∀ (cnt : BitVec 8) (s : State) (h : Handle) (w : Window) (p : Paired) (n : Nat), s.accepts →
     oprWindow s = some (h, w) → w.body = .paired p → p.views = 0 → p.drain = none →
     s.isLocked h = false → s.groups.isOpen w.group = true → bitAt (opr s 1) 0 = true → s.quiet →
     s.pubUnit = .ready → p.work = none → p.dirty ≠ .lines [] → nextCopyLine w p.take = some n →
     exec (.retire cnt) s =
       .next (arbitrate { s.publishing h w { p with drain := some 0 } n with
         engine := { s.engine with
           drainQueue := [h], state := .drain, heldFrom := none, purpose := some .drain },
         cmd := s.cmd.completed codeRetire cnt .accepted [] })) ∧
  (∀ (s : State) (r : PublishRecord) (n : Nat) (w : Window) (p : Paired) (k : Working),
     s.inReset = none → s.grant = some .engine → s.paired? r.handle = some (w, p) → p.work = some k →
     r.abandons = [] → s.engine.state = .drain → s.engine.purpose = some .drain →
     s.engine.drainQueue = [r.handle] → s.engine.context = none → s.engine.urgentRun = none →
     s.engine.urgentRequested = false → s.engine.run = none → s.engine.regularPending = false →
     (∀ q, s.waitingAccess q = none) →
     let idle : Engine := { s.engine with
       drainQueue := [], state := .idle, heldFrom := none, purpose := none }
     let again : Bank → Nat → Paired → State → Prop := fun bank x q t =>
       t.pubUnit = .reading { handle := r.handle, idle := bank, abandons := [], suspend := false } x ∧
         t.paired? r.handle = some ({ w with body := .paired q }, q) ∧
         t.engine = { s.engine with heldFrom := none } ∧ t.cmd = s.cmd
     let freed : DrainOutcome → State → Prop := fun o t =>
       t.slot r.handle.index = { inst := r.handle.inst, win := none } ∧
         t.free = s.free + p.dirty.marks + k.set.marks + p.carry.marks ∧ t.pubUnit = .ready ∧
         t.engine = idle ∧
         t.events.retireReport = { index := r.handle.index, inst := r.handle.inst, outcome := some o } ∧
         t.isPending .windowFreed = true ∧ t.isPending .engineIdle = true ∧ t.cmd = s.cmd
     (∀ bs, s.pubUnit = .writing r n bs → r.suspend = false → s.isLocked r.handle = false →
       s.inStore (p.bankOffset r.idle + n * w.lineSize.bytes) bs.length = true →
       nextCopyLine w { p with work := some { k with pos := n + 1 } } = none →
       let q : Paired := { p with
         current := r.idle, gen := bump p.gen, carry := k.set, dirty := .lines [],
         work := some { set := p.dirty, pos := 0 } }
       (p.dirty = .lines [] → ∀ early, ∃ t, exec (.lineBoundary ⟨false, early⟩) s = .next t ∧
         freed .clean t) ∧
       ∀ x, p.dirty ≠ .lines [] → nextCopyLine w q = some x →
         ∀ early, ∃ t, exec (.lineBoundary ⟨false, early⟩) s = .next t ∧ again r.idle.other x q t ∧
           t.events = s.events) ∧
     let fails : Instr → Bool → Nat → (State → Prop) → Prop := fun i write addr store =>
       (p.drain = some 1 → ∃ t, exec i s = .next t ∧ freed .flushFailed t ∧ store t ∧
         t.isPending .publishFault = true ∧ t.events.capture = some (s.events.capture.getD
           (.lineCopy (BitVec.ofNat 32 addr) write r.handle.index))) ∧
       ∀ x, p.drain = some 0 → p.dirty.union k.set ≠ .lines [] →
         let q : Paired := { p with
           drain := some 1, dirty := .lines [], work := some { set := p.dirty.union k.set, pos := 0 } }
         nextCopyLine w q = some x → ∃ t, exec i s = .next t ∧ again p.current.other x q t ∧ store t ∧
           t.isPending .publishFault = true ∧ t.events.capture = some (s.events.capture.getD
             (.lineCopy (BitVec.ofNat 32 addr) write r.handle.index))
     (s.pubUnit = .reading r n →
       s.inStore (p.live.toNat + n * w.lineSize.bytes) w.lineSize.bytes = true →
       fails (.lineCopyReadDone true) false (p.live.toNat + n * w.lineSize.bytes)
         fun t => t.store = s.store) ∧
     ∀ bs early, s.pubUnit = .writing r n bs →
       s.inStore (p.bankOffset r.idle + n * w.lineSize.bytes) bs.length = true →
       fails (.lineBoundary ⟨true, early⟩) true (p.bankOffset r.idle + n * w.lineSize.bytes) fun t =>
         ∀ y, (y < p.bankOffset r.idle + n * w.lineSize.bytes ∨
             p.bankOffset r.idle + n * w.lineSize.bytes + bs.length ≤ y) →
           Memory.byte t.store y = Memory.byte s.store y) ∧
  ∀ (s : State) (h : Handle) (l : List Handle) (w : Window) (p : Paired), s.engine.drainQueue = h :: l →
    s.paired? h = some (w, p) → p.drain = some 0 →
    account .drain h (.abandoned .storeError) s =
      { s with
        slots := s.slots.set h.index
          { s.slot h.index with win := some { w with body := .paired { p with drain := some 1 } } },
        engine := { s.engine with drainQueue := l ++ [h] } }

/-- In STEPPED a regular trigger in IDLE begins a sub-run at the cursor, of up to the step size of entries, and
a pass with it at cursor 0 (R94, R96).  An entry that ends advances the cursor; the last of its sub-run ends
it with STEP_DONE, the engine goes IDLE with the cursor and the working report kept, and at the end of the
sequence the pass ends with its report and PASS_DONE, and the cursor returns to 0; a sub-run over an empty
sequence ends a pass COMPLETE (R96, R99). -/
def Obligations.SteppedRunsGoBySubRuns : Prop :=
  (∀ (s : State) (h : Handle) (w : Window) (p : Paired) (n : Nat), s.quiet → s.pubUnit = .ready →
     s.engine.config.mode = .stepped → s.engine.regularSeq[s.engine.cursor]? = some h →
     1 ≤ s.engine.config.step → (0 < s.engine.cursor → s.engine.working ≠ none) →
     s.paired? h = some (w, p) → s.isLocked h = false → p.work = none → nextCopyLine w p.take = some n →
     let e : Engine :=
       if s.engine.cursor = 0 then
         { s.engine with
           passCounter := bump s.engine.passCounter,
           working := some { number := bump s.engine.passCounter, published := 0, skipped := 0, vacant := 0,
                             copied := false } }
       else s.engine
     let f : Engine := { e with
       state := .run, heldFrom := none, purpose := some .regular,
       run := some
         { pos := s.engine.cursor,
           remaining := some
             (min s.engine.config.step (s.engine.regularSeq.length - s.engine.cursor)) } }
     (∀ cnt, s.accepts →
       exec (.start cnt) s =
         .next (arbitrate { s.publishing h w p n with
           engine := f, cmd := s.cmd.completed codeStart cnt .done [] })) ∧
     (s.inReset = none → s.engine.config.trigREnable = true →
       exec .trigREdge s = .next (arbitrate { s.publishing h w p n with engine := f })) ∧
     (s.inReset = none → s.engine.paceTimer ≠ none →
       exec .paceExpiry s =
         .next (arbitrate { s.publishing h w p n with
           engine := { f with paceTimer := some (s.engine.config.pacePeriod * 100) } }))) ∧
  (∀ (s : State) (m : RegularRun) (a : Nat), s.engine.run = some m → s.engine.config.mode = .stepped →
     m.remaining = some a → 2 ≤ a →
     entryEnds s =
       { s with engine := { s.engine with
           run := some { pos := m.pos + 1, remaining := some (a - 1) }, cursor := s.engine.cursor + 1 } }) ∧
  (∀ (s : State) (r : PublishRecord) (n : Nat) (bs : List Byte) (w : Window) (p : Paired) (k : Working)
     (m : RegularRun) (v : WorkReport), s.inReset = none → s.grant = some .engine →
     s.pubUnit = .writing r n bs → r.abandons = [] → r.suspend = false →
     s.paired? r.handle = some (w, p) → p.work = some k → s.isLocked r.handle = false →
     s.inStore (p.bankOffset r.idle + n * w.lineSize.bytes) bs.length = true →
     nextCopyLine w { p with work := some { k with pos := n + 1 } } = none →
     s.engine.state = .run → s.engine.purpose = some .regular → s.engine.config.mode = .stepped →
     s.engine.config.autoUrgent = false → s.engine.run = some m → m.remaining = some 1 →
     s.engine.working = some v → s.engine.context = none → s.engine.restartPass = false →
     s.engine.regularPending = false → s.engine.urgentRun = none → s.engine.urgentRequested = false →
     s.engine.drainQueue = [] → (∀ q, s.waitingAccess q = none) →
     (s.engine.cursor + 1 < s.engine.regularSeq.length →
       ∀ early, ∃ t, exec (.lineBoundary ⟨false, early⟩) s = .next t ∧ t.pubUnit = .ready ∧
         t.engine =
           { s.engine with
             state := .idle, heldFrom := none, purpose := none, run := none,
             cursor := s.engine.cursor + 1,
             working := some { v with published := v.published + 1, copied := true } } ∧
         t.events = (s.events.raised .stepDone).raised .engineIdle) ∧
     (s.engine.regularSeq.length ≤ s.engine.cursor + 1 →
       ∀ early, ∃ t, exec (.lineBoundary ⟨false, early⟩) s = .next t ∧ t.pubUnit = .ready ∧
         t.engine =
           { s.engine with
             state := .idle, heldFrom := none, purpose := none, run := none, cursor := 0, working := none,
             passReport :=
               { number := v.number, status := some (if v.skipped = 0 then .complete else .partly),
                 published := v.published + 1, skipped := v.skipped, vacant := v.vacant } } ∧
         t.events = ((s.events.raised .stepDone).raised .passDone).raised .engineIdle)) ∧
  ∀ (cnt : BitVec 8) (s : State), s.accepts → s.quiet → s.pubUnit = .ready →
    s.engine.config.mode = .stepped → s.engine.config.autoUrgent = false → s.engine.regularSeq = [] →
    s.engine.cursor = 0 →
    exec (.start cnt) s =
      .next (arbitrate { s with
        events := (s.events.raised .stepDone).raised .passDone,
        engine := { s.engine with
          passCounter := bump s.engine.passCounter,
          passReport := { number := bump s.engine.passCounter, status := some .complete, published := 0,
                          skipped := 0, vacant := 0 },
          run := none, working := none },
        cmd := s.cmd.completed codeStart cnt .done [] })

/-! ### Invariants that every step keeps -/

/-- Every step keeps the store in its canonical form: addresses strictly rising and no cell that holds what an
unlisted byte reads as.  The form is the model's own representation of the store's bytes, and what an unlisted
byte reads as is its choice (log 6); the spec says which bytes an access changes. -/
def Obligations.StepKeepsTheStoreCanonical : Prop :=
  ∀ s t : State, StoreCanonical s → step s = .next t → StoreCanonical t

/-- Every step keeps the conservation of marks: the free count plus the marks held equals 8192 (R45). -/
def Obligations.StepConservesTheMarks : Prop :=
  ∀ s t : State, MarksConserved s → step s = .next t → MarksConserved t

/-- Every step keeps the requester ranges of filled slots below 4 GiB and pairwise disjoint, and the store
regions of filled slots within the store and pairwise disjoint (R15, R16). -/
def Obligations.StepKeepsRangesAndRegionsDisjoint : Prop :=
  (∀ s t : State, RangesDisjoint s → step s = .next t → RangesDisjoint t) ∧
  ∀ s t : State, RegionsDisjoint s → step s = .next t → RegionsDisjoint t

/-- Every step keeps the law of the guard table (R136). -/
def Obligations.StepKeepsTheGuardsSound : Prop :=
  ∀ s t : State, GuardsSound s → step s = .next t → GuardsSound t

/-- Every step keeps the laws of the drain queue and of the lock table together (R5, R115, R120). -/
def Obligations.StepKeepsDrainsAndLocksSound : Prop :=
  ∀ s t : State, DrainsAndLocksSound s → step s = .next t → DrainsAndLocksSound t

/-- Every step keeps the bank that the publish at the unit writes other than the current one (R70). -/
def Obligations.StepKeepsTheIdleBankIdle : Prop :=
  ∀ s t : State, IdleBankSound s → step s = .next t → IdleBankSound t

/-- Every step keeps the law of the store port's grant, where the unit's publish has its window (R40). -/
def Obligations.StepKeepsTheGrantSound : Prop :=
  ∀ s t : State, IdleBankSound s → GrantSound s → step s = .next t → GrantSound t

/-- Every step keeps the law of views: every VIEW's source is an ACTIVE PAIRED window, every view count equals
the number of views naming its window, and a window that a waiting RETIRE is to free has none; the drain queue
keeps its law meanwhile (R17, R115, R156). -/
def Obligations.StepKeepsTheViewsSound : Prop :=
  ∀ s t : State, DrainsAndLocksSound s → ViewsSound s → step s = .next t → ViewsSound t

/-- Every step keeps the law of working sets, where the drain queue, the lock table and the idle bank keep
theirs; and under it at most two windows have a working set, one of two is the suspended context's, and an
engine IDLE leaves none (R75). -/
def Obligations.StepKeepsTheWorkingSetsSound : Prop :=
  (∀ s t : State, DrainsAndLocksSound s → IdleBankSound s → WorkingSetsSound s → step s = .next t →
    WorkingSetsSound t) ∧
  ∀ s : State, WorkingSetsSound s → s.inReset = none →
    (∀ h k l, s.hasWork h → s.hasWork k → s.hasWork l → h = k ∨ k = l ∨ h = l) ∧
    (∀ h k, h ≠ k → s.hasWork h → s.hasWork k →
      ∃ c, s.engine.context = some c ∧ (c.handle = h ∨ c.handle = k)) ∧
    (s.engine.state = .idle → ∀ h, ¬s.hasWork h)

/-- State.reset satisfies every invariant that the steps keep. -/
def Obligations.ResetSatisfiesTheInvariants : Prop :=
  StoreCanonical State.reset ∧ MarksConserved State.reset ∧ RangesDisjoint State.reset ∧
    RegionsDisjoint State.reset ∧ GuardsSound State.reset ∧ DrainsAndLocksSound State.reset ∧
    IdleBankSound State.reset ∧ GrantSound State.reset ∧ ViewsSound State.reset ∧
    WorkingSetsSound State.reset
end

