-- ==== Sys2Proof/Laws/State.lean ====
section
/-! SUPPORT. One lemma per field per update of the state, true by rfl. -/

namespace Sys2Proof.Machine

/-! ### raise -/

@[simp] theorem raise_slots (e : Event) (s : State) :
    (raise e s).slots = s.slots := rfl
@[simp] theorem raise_groups (e : Event) (s : State) :
    (raise e s).groups = s.groups := rfl
@[simp] theorem raise_storeStrap (e : Event) (s : State) :
    (raise e s).storeStrap = s.storeStrap := rfl
@[simp] theorem raise_ports (e : Event) (s : State) :
    (raise e s).ports = s.ports := rfl
@[simp] theorem raise_grant (e : Event) (s : State) :
    (raise e s).grant = s.grant := rfl
@[simp] theorem raise_pointer (e : Event) (s : State) :
    (raise e s).pointer = s.pointer := rfl
@[simp] theorem raise_free (e : Event) (s : State) :
    (raise e s).free = s.free := rfl
@[simp] theorem raise_urgency (e : Event) (s : State) :
    (raise e s).urgency = s.urgency := rfl
@[simp] theorem raise_pubUnit (e : Event) (s : State) :
    (raise e s).pubUnit = s.pubUnit := rfl
@[simp] theorem raise_continues (e : Event) (s : State) :
    (raise e s).continues = s.continues := rfl
@[simp] theorem raise_engine (e : Event) (s : State) :
    (raise e s).engine = s.engine := rfl
@[simp] theorem raise_locks (e : Event) (s : State) :
    (raise e s).locks = s.locks := rfl
@[simp] theorem raise_holdLimit (e : Event) (s : State) :
    (raise e s).holdLimit = s.holdLimit := rfl
@[simp] theorem raise_guards (e : Event) (s : State) :
    (raise e s).guards = s.guards := rfl
@[simp] theorem raise_cmd (e : Event) (s : State) :
    (raise e s).cmd = s.cmd := rfl
@[simp] theorem raise_inReset (e : Event) (s : State) :
    (raise e s).inReset = s.inReset := rfl
@[simp] theorem raise_store (e : Event) (s : State) :
    (raise e s).store = s.store := rfl
@[simp] theorem raise_fresh (e : Event) (s : State) :
    (raise e s).fresh = s.fresh := rfl
@[simp] theorem raise_pending (e : Event) (s : State) :
    (raise e s).pending = s.pending := rfl

/-! ### updateUrgency -/

@[simp] theorem updateUrgency_slots (s : State) :
    (updateUrgency s).slots = s.slots := rfl
@[simp] theorem updateUrgency_groups (s : State) :
    (updateUrgency s).groups = s.groups := rfl
@[simp] theorem updateUrgency_storeStrap (s : State) :
    (updateUrgency s).storeStrap = s.storeStrap := rfl
@[simp] theorem updateUrgency_ports (s : State) :
    (updateUrgency s).ports = s.ports := rfl
@[simp] theorem updateUrgency_grant (s : State) :
    (updateUrgency s).grant = s.grant := rfl
@[simp] theorem updateUrgency_pointer (s : State) :
    (updateUrgency s).pointer = s.pointer := rfl
@[simp] theorem updateUrgency_free (s : State) :
    (updateUrgency s).free = s.free := rfl
@[simp] theorem updateUrgency_pubUnit (s : State) :
    (updateUrgency s).pubUnit = s.pubUnit := rfl
@[simp] theorem updateUrgency_continues (s : State) :
    (updateUrgency s).continues = s.continues := rfl
@[simp] theorem updateUrgency_engine (s : State) :
    (updateUrgency s).engine = s.engine := rfl
@[simp] theorem updateUrgency_locks (s : State) :
    (updateUrgency s).locks = s.locks := rfl
@[simp] theorem updateUrgency_holdLimit (s : State) :
    (updateUrgency s).holdLimit = s.holdLimit := rfl
@[simp] theorem updateUrgency_guards (s : State) :
    (updateUrgency s).guards = s.guards := rfl
@[simp] theorem updateUrgency_cmd (s : State) :
    (updateUrgency s).cmd = s.cmd := rfl
@[simp] theorem updateUrgency_events (s : State) :
    (updateUrgency s).events = s.events := rfl
@[simp] theorem updateUrgency_inReset (s : State) :
    (updateUrgency s).inReset = s.inReset := rfl
@[simp] theorem updateUrgency_store (s : State) :
    (updateUrgency s).store = s.store := rfl
@[simp] theorem updateUrgency_fresh (s : State) :
    (updateUrgency s).fresh = s.fresh := rfl
@[simp] theorem updateUrgency_pending (s : State) :
    (updateUrgency s).pending = s.pending := rfl

/-! ### setFree -/

@[simp] theorem setFree_slots (n : Nat) (s : State) :
    (setFree n s).slots = s.slots := rfl
@[simp] theorem setFree_groups (n : Nat) (s : State) :
    (setFree n s).groups = s.groups := rfl
@[simp] theorem setFree_storeStrap (n : Nat) (s : State) :
    (setFree n s).storeStrap = s.storeStrap := rfl
@[simp] theorem setFree_ports (n : Nat) (s : State) :
    (setFree n s).ports = s.ports := rfl
@[simp] theorem setFree_grant (n : Nat) (s : State) :
    (setFree n s).grant = s.grant := rfl
@[simp] theorem setFree_pointer (n : Nat) (s : State) :
    (setFree n s).pointer = s.pointer := rfl
@[simp] theorem setFree_free (n : Nat) (s : State) :
    (setFree n s).free = n := rfl
@[simp] theorem setFree_pubUnit (n : Nat) (s : State) :
    (setFree n s).pubUnit = s.pubUnit := rfl
@[simp] theorem setFree_continues (n : Nat) (s : State) :
    (setFree n s).continues = s.continues := rfl
@[simp] theorem setFree_engine (n : Nat) (s : State) :
    (setFree n s).engine = s.engine := rfl
@[simp] theorem setFree_locks (n : Nat) (s : State) :
    (setFree n s).locks = s.locks := rfl
@[simp] theorem setFree_holdLimit (n : Nat) (s : State) :
    (setFree n s).holdLimit = s.holdLimit := rfl
@[simp] theorem setFree_guards (n : Nat) (s : State) :
    (setFree n s).guards = s.guards := rfl
@[simp] theorem setFree_cmd (n : Nat) (s : State) :
    (setFree n s).cmd = s.cmd := rfl
@[simp] theorem setFree_events (n : Nat) (s : State) :
    (setFree n s).events = s.events := rfl
@[simp] theorem setFree_inReset (n : Nat) (s : State) :
    (setFree n s).inReset = s.inReset := rfl
@[simp] theorem setFree_store (n : Nat) (s : State) :
    (setFree n s).store = s.store := rfl
@[simp] theorem setFree_fresh (n : Nat) (s : State) :
    (setFree n s).fresh = s.fresh := rfl
@[simp] theorem setFree_pending (n : Nat) (s : State) :
    (setFree n s).pending = s.pending := rfl

/-! ### setSlot -/

@[simp] theorem setSlot_slots (i : SlotId) (x : Slot) (s : State) :
    (s.setSlot i x).slots = s.slots.set i x := rfl
@[simp] theorem setSlot_groups (i : SlotId) (x : Slot) (s : State) :
    (s.setSlot i x).groups = s.groups := rfl
@[simp] theorem setSlot_storeStrap (i : SlotId) (x : Slot) (s : State) :
    (s.setSlot i x).storeStrap = s.storeStrap := rfl
@[simp] theorem setSlot_ports (i : SlotId) (x : Slot) (s : State) :
    (s.setSlot i x).ports = s.ports := rfl
@[simp] theorem setSlot_grant (i : SlotId) (x : Slot) (s : State) :
    (s.setSlot i x).grant = s.grant := rfl
@[simp] theorem setSlot_pointer (i : SlotId) (x : Slot) (s : State) :
    (s.setSlot i x).pointer = s.pointer := rfl
@[simp] theorem setSlot_free (i : SlotId) (x : Slot) (s : State) :
    (s.setSlot i x).free = s.free := rfl
@[simp] theorem setSlot_urgency (i : SlotId) (x : Slot) (s : State) :
    (s.setSlot i x).urgency = s.urgency := rfl
@[simp] theorem setSlot_pubUnit (i : SlotId) (x : Slot) (s : State) :
    (s.setSlot i x).pubUnit = s.pubUnit := rfl
@[simp] theorem setSlot_continues (i : SlotId) (x : Slot) (s : State) :
    (s.setSlot i x).continues = s.continues := rfl
@[simp] theorem setSlot_engine (i : SlotId) (x : Slot) (s : State) :
    (s.setSlot i x).engine = s.engine := rfl
@[simp] theorem setSlot_locks (i : SlotId) (x : Slot) (s : State) :
    (s.setSlot i x).locks = s.locks := rfl
@[simp] theorem setSlot_holdLimit (i : SlotId) (x : Slot) (s : State) :
    (s.setSlot i x).holdLimit = s.holdLimit := rfl
@[simp] theorem setSlot_guards (i : SlotId) (x : Slot) (s : State) :
    (s.setSlot i x).guards = s.guards := rfl
@[simp] theorem setSlot_cmd (i : SlotId) (x : Slot) (s : State) :
    (s.setSlot i x).cmd = s.cmd := rfl
@[simp] theorem setSlot_events (i : SlotId) (x : Slot) (s : State) :
    (s.setSlot i x).events = s.events := rfl
@[simp] theorem setSlot_inReset (i : SlotId) (x : Slot) (s : State) :
    (s.setSlot i x).inReset = s.inReset := rfl
@[simp] theorem setSlot_store (i : SlotId) (x : Slot) (s : State) :
    (s.setSlot i x).store = s.store := rfl
@[simp] theorem setSlot_fresh (i : SlotId) (x : Slot) (s : State) :
    (s.setSlot i x).fresh = s.fresh := rfl
@[simp] theorem setSlot_pending (i : SlotId) (x : Slot) (s : State) :
    (s.setSlot i x).pending = s.pending := rfl

/-! ### setWindow -/

@[simp] theorem setWindow_slots (i : SlotId) (w : Window) (s : State) :
    (s.setWindow i w).slots = s.slots.set i { s.slot i with win := some w } := rfl
@[simp] theorem setWindow_groups (i : SlotId) (w : Window) (s : State) :
    (s.setWindow i w).groups = s.groups := rfl
@[simp] theorem setWindow_storeStrap (i : SlotId) (w : Window) (s : State) :
    (s.setWindow i w).storeStrap = s.storeStrap := rfl
@[simp] theorem setWindow_ports (i : SlotId) (w : Window) (s : State) :
    (s.setWindow i w).ports = s.ports := rfl
@[simp] theorem setWindow_grant (i : SlotId) (w : Window) (s : State) :
    (s.setWindow i w).grant = s.grant := rfl
@[simp] theorem setWindow_pointer (i : SlotId) (w : Window) (s : State) :
    (s.setWindow i w).pointer = s.pointer := rfl
@[simp] theorem setWindow_free (i : SlotId) (w : Window) (s : State) :
    (s.setWindow i w).free = s.free := rfl
@[simp] theorem setWindow_urgency (i : SlotId) (w : Window) (s : State) :
    (s.setWindow i w).urgency = s.urgency := rfl
@[simp] theorem setWindow_pubUnit (i : SlotId) (w : Window) (s : State) :
    (s.setWindow i w).pubUnit = s.pubUnit := rfl
@[simp] theorem setWindow_continues (i : SlotId) (w : Window) (s : State) :
    (s.setWindow i w).continues = s.continues := rfl
@[simp] theorem setWindow_engine (i : SlotId) (w : Window) (s : State) :
    (s.setWindow i w).engine = s.engine := rfl
@[simp] theorem setWindow_locks (i : SlotId) (w : Window) (s : State) :
    (s.setWindow i w).locks = s.locks := rfl
@[simp] theorem setWindow_holdLimit (i : SlotId) (w : Window) (s : State) :
    (s.setWindow i w).holdLimit = s.holdLimit := rfl
@[simp] theorem setWindow_guards (i : SlotId) (w : Window) (s : State) :
    (s.setWindow i w).guards = s.guards := rfl
@[simp] theorem setWindow_cmd (i : SlotId) (w : Window) (s : State) :
    (s.setWindow i w).cmd = s.cmd := rfl
@[simp] theorem setWindow_events (i : SlotId) (w : Window) (s : State) :
    (s.setWindow i w).events = s.events := rfl
@[simp] theorem setWindow_inReset (i : SlotId) (w : Window) (s : State) :
    (s.setWindow i w).inReset = s.inReset := rfl
@[simp] theorem setWindow_store (i : SlotId) (w : Window) (s : State) :
    (s.setWindow i w).store = s.store := rfl
@[simp] theorem setWindow_fresh (i : SlotId) (w : Window) (s : State) :
    (s.setWindow i w).fresh = s.fresh := rfl
@[simp] theorem setWindow_pending (i : SlotId) (w : Window) (s : State) :
    (s.setWindow i w).pending = s.pending := rfl

/-! ### setPaired -/

@[simp] theorem setPaired_slots (i : SlotId) (w : Window) (p : Paired) (s : State) :
    (s.setPaired i w p).slots = s.slots.set i { s.slot i with win := some { w with body := .paired p } } := rfl
@[simp] theorem setPaired_groups (i : SlotId) (w : Window) (p : Paired) (s : State) :
    (s.setPaired i w p).groups = s.groups := rfl
@[simp] theorem setPaired_storeStrap (i : SlotId) (w : Window) (p : Paired) (s : State) :
    (s.setPaired i w p).storeStrap = s.storeStrap := rfl
@[simp] theorem setPaired_ports (i : SlotId) (w : Window) (p : Paired) (s : State) :
    (s.setPaired i w p).ports = s.ports := rfl
@[simp] theorem setPaired_grant (i : SlotId) (w : Window) (p : Paired) (s : State) :
    (s.setPaired i w p).grant = s.grant := rfl
@[simp] theorem setPaired_pointer (i : SlotId) (w : Window) (p : Paired) (s : State) :
    (s.setPaired i w p).pointer = s.pointer := rfl
@[simp] theorem setPaired_free (i : SlotId) (w : Window) (p : Paired) (s : State) :
    (s.setPaired i w p).free = s.free := rfl
@[simp] theorem setPaired_urgency (i : SlotId) (w : Window) (p : Paired) (s : State) :
    (s.setPaired i w p).urgency = s.urgency := rfl
@[simp] theorem setPaired_pubUnit (i : SlotId) (w : Window) (p : Paired) (s : State) :
    (s.setPaired i w p).pubUnit = s.pubUnit := rfl
@[simp] theorem setPaired_continues (i : SlotId) (w : Window) (p : Paired) (s : State) :
    (s.setPaired i w p).continues = s.continues := rfl
@[simp] theorem setPaired_engine (i : SlotId) (w : Window) (p : Paired) (s : State) :
    (s.setPaired i w p).engine = s.engine := rfl
@[simp] theorem setPaired_locks (i : SlotId) (w : Window) (p : Paired) (s : State) :
    (s.setPaired i w p).locks = s.locks := rfl
@[simp] theorem setPaired_holdLimit (i : SlotId) (w : Window) (p : Paired) (s : State) :
    (s.setPaired i w p).holdLimit = s.holdLimit := rfl
@[simp] theorem setPaired_guards (i : SlotId) (w : Window) (p : Paired) (s : State) :
    (s.setPaired i w p).guards = s.guards := rfl
@[simp] theorem setPaired_cmd (i : SlotId) (w : Window) (p : Paired) (s : State) :
    (s.setPaired i w p).cmd = s.cmd := rfl
@[simp] theorem setPaired_events (i : SlotId) (w : Window) (p : Paired) (s : State) :
    (s.setPaired i w p).events = s.events := rfl
@[simp] theorem setPaired_inReset (i : SlotId) (w : Window) (p : Paired) (s : State) :
    (s.setPaired i w p).inReset = s.inReset := rfl
@[simp] theorem setPaired_store (i : SlotId) (w : Window) (p : Paired) (s : State) :
    (s.setPaired i w p).store = s.store := rfl
@[simp] theorem setPaired_fresh (i : SlotId) (w : Window) (p : Paired) (s : State) :
    (s.setPaired i w p).fresh = s.fresh := rfl
@[simp] theorem setPaired_pending (i : SlotId) (w : Window) (p : Paired) (s : State) :
    (s.setPaired i w p).pending = s.pending := rfl

/-! ### setLock -/

@[simp] theorem setLock_slots (p : PortId) (l : Option Lock) (s : State) :
    (s.setLock p l).slots = s.slots := rfl
@[simp] theorem setLock_groups (p : PortId) (l : Option Lock) (s : State) :
    (s.setLock p l).groups = s.groups := rfl
@[simp] theorem setLock_storeStrap (p : PortId) (l : Option Lock) (s : State) :
    (s.setLock p l).storeStrap = s.storeStrap := rfl
@[simp] theorem setLock_ports (p : PortId) (l : Option Lock) (s : State) :
    (s.setLock p l).ports = s.ports := rfl
@[simp] theorem setLock_grant (p : PortId) (l : Option Lock) (s : State) :
    (s.setLock p l).grant = s.grant := rfl
@[simp] theorem setLock_pointer (p : PortId) (l : Option Lock) (s : State) :
    (s.setLock p l).pointer = s.pointer := rfl
@[simp] theorem setLock_free (p : PortId) (l : Option Lock) (s : State) :
    (s.setLock p l).free = s.free := rfl
@[simp] theorem setLock_urgency (p : PortId) (l : Option Lock) (s : State) :
    (s.setLock p l).urgency = s.urgency := rfl
@[simp] theorem setLock_pubUnit (p : PortId) (l : Option Lock) (s : State) :
    (s.setLock p l).pubUnit = s.pubUnit := rfl
@[simp] theorem setLock_continues (p : PortId) (l : Option Lock) (s : State) :
    (s.setLock p l).continues = s.continues := rfl
@[simp] theorem setLock_engine (p : PortId) (l : Option Lock) (s : State) :
    (s.setLock p l).engine = s.engine := rfl
@[simp] theorem setLock_locks (p : PortId) (l : Option Lock) (s : State) :
    (s.setLock p l).locks = s.locks.set p l := rfl
@[simp] theorem setLock_holdLimit (p : PortId) (l : Option Lock) (s : State) :
    (s.setLock p l).holdLimit = s.holdLimit := rfl
@[simp] theorem setLock_guards (p : PortId) (l : Option Lock) (s : State) :
    (s.setLock p l).guards = s.guards := rfl
@[simp] theorem setLock_cmd (p : PortId) (l : Option Lock) (s : State) :
    (s.setLock p l).cmd = s.cmd := rfl
@[simp] theorem setLock_events (p : PortId) (l : Option Lock) (s : State) :
    (s.setLock p l).events = s.events := rfl
@[simp] theorem setLock_inReset (p : PortId) (l : Option Lock) (s : State) :
    (s.setLock p l).inReset = s.inReset := rfl
@[simp] theorem setLock_store (p : PortId) (l : Option Lock) (s : State) :
    (s.setLock p l).store = s.store := rfl
@[simp] theorem setLock_fresh (p : PortId) (l : Option Lock) (s : State) :
    (s.setLock p l).fresh = s.fresh := rfl
@[simp] theorem setLock_pending (p : PortId) (l : Option Lock) (s : State) :
    (s.setLock p l).pending = s.pending := rfl

/-! ### takeLock -/

@[simp] theorem takeLock_slots (p : PortId) (h : Handle) (s : State) :
    (takeLock p h s).slots = s.slots := rfl
@[simp] theorem takeLock_groups (p : PortId) (h : Handle) (s : State) :
    (takeLock p h s).groups = s.groups := rfl
@[simp] theorem takeLock_storeStrap (p : PortId) (h : Handle) (s : State) :
    (takeLock p h s).storeStrap = s.storeStrap := rfl
@[simp] theorem takeLock_ports (p : PortId) (h : Handle) (s : State) :
    (takeLock p h s).ports = s.ports := rfl
@[simp] theorem takeLock_grant (p : PortId) (h : Handle) (s : State) :
    (takeLock p h s).grant = s.grant := rfl
@[simp] theorem takeLock_pointer (p : PortId) (h : Handle) (s : State) :
    (takeLock p h s).pointer = s.pointer := rfl
@[simp] theorem takeLock_free (p : PortId) (h : Handle) (s : State) :
    (takeLock p h s).free = s.free := rfl
@[simp] theorem takeLock_urgency (p : PortId) (h : Handle) (s : State) :
    (takeLock p h s).urgency = s.urgency := rfl
@[simp] theorem takeLock_pubUnit (p : PortId) (h : Handle) (s : State) :
    (takeLock p h s).pubUnit = s.pubUnit := rfl
@[simp] theorem takeLock_continues (p : PortId) (h : Handle) (s : State) :
    (takeLock p h s).continues = s.continues := rfl
@[simp] theorem takeLock_engine (p : PortId) (h : Handle) (s : State) :
    (takeLock p h s).engine = s.engine := rfl
@[simp] theorem takeLock_holdLimit (p : PortId) (h : Handle) (s : State) :
    (takeLock p h s).holdLimit = s.holdLimit := rfl
@[simp] theorem takeLock_guards (p : PortId) (h : Handle) (s : State) :
    (takeLock p h s).guards = s.guards := rfl
@[simp] theorem takeLock_cmd (p : PortId) (h : Handle) (s : State) :
    (takeLock p h s).cmd = s.cmd := rfl
@[simp] theorem takeLock_events (p : PortId) (h : Handle) (s : State) :
    (takeLock p h s).events = s.events := rfl
@[simp] theorem takeLock_inReset (p : PortId) (h : Handle) (s : State) :
    (takeLock p h s).inReset = s.inReset := rfl
@[simp] theorem takeLock_store (p : PortId) (h : Handle) (s : State) :
    (takeLock p h s).store = s.store := rfl
@[simp] theorem takeLock_fresh (p : PortId) (h : Handle) (s : State) :
    (takeLock p h s).fresh = s.fresh := rfl
@[simp] theorem takeLock_pending (p : PortId) (h : Handle) (s : State) :
    (takeLock p h s).pending = s.pending := rfl

/-! ### setGuard -/

@[simp] theorem setGuard_slots (g : GuardId) (x : Option Guard) (s : State) :
    (s.setGuard g x).slots = s.slots := rfl
@[simp] theorem setGuard_groups (g : GuardId) (x : Option Guard) (s : State) :
    (s.setGuard g x).groups = s.groups := rfl
@[simp] theorem setGuard_storeStrap (g : GuardId) (x : Option Guard) (s : State) :
    (s.setGuard g x).storeStrap = s.storeStrap := rfl
@[simp] theorem setGuard_ports (g : GuardId) (x : Option Guard) (s : State) :
    (s.setGuard g x).ports = s.ports := rfl
@[simp] theorem setGuard_grant (g : GuardId) (x : Option Guard) (s : State) :
    (s.setGuard g x).grant = s.grant := rfl
@[simp] theorem setGuard_pointer (g : GuardId) (x : Option Guard) (s : State) :
    (s.setGuard g x).pointer = s.pointer := rfl
@[simp] theorem setGuard_free (g : GuardId) (x : Option Guard) (s : State) :
    (s.setGuard g x).free = s.free := rfl
@[simp] theorem setGuard_urgency (g : GuardId) (x : Option Guard) (s : State) :
    (s.setGuard g x).urgency = s.urgency := rfl
@[simp] theorem setGuard_pubUnit (g : GuardId) (x : Option Guard) (s : State) :
    (s.setGuard g x).pubUnit = s.pubUnit := rfl
@[simp] theorem setGuard_continues (g : GuardId) (x : Option Guard) (s : State) :
    (s.setGuard g x).continues = s.continues := rfl
@[simp] theorem setGuard_engine (g : GuardId) (x : Option Guard) (s : State) :
    (s.setGuard g x).engine = s.engine := rfl
@[simp] theorem setGuard_locks (g : GuardId) (x : Option Guard) (s : State) :
    (s.setGuard g x).locks = s.locks := rfl
@[simp] theorem setGuard_holdLimit (g : GuardId) (x : Option Guard) (s : State) :
    (s.setGuard g x).holdLimit = s.holdLimit := rfl
@[simp] theorem setGuard_guards (g : GuardId) (x : Option Guard) (s : State) :
    (s.setGuard g x).guards = s.guards.set g x := rfl
@[simp] theorem setGuard_cmd (g : GuardId) (x : Option Guard) (s : State) :
    (s.setGuard g x).cmd = s.cmd := rfl
@[simp] theorem setGuard_events (g : GuardId) (x : Option Guard) (s : State) :
    (s.setGuard g x).events = s.events := rfl
@[simp] theorem setGuard_inReset (g : GuardId) (x : Option Guard) (s : State) :
    (s.setGuard g x).inReset = s.inReset := rfl
@[simp] theorem setGuard_store (g : GuardId) (x : Option Guard) (s : State) :
    (s.setGuard g x).store = s.store := rfl
@[simp] theorem setGuard_fresh (g : GuardId) (x : Option Guard) (s : State) :
    (s.setGuard g x).fresh = s.fresh := rfl
@[simp] theorem setGuard_pending (g : GuardId) (x : Option Guard) (s : State) :
    (s.setGuard g x).pending = s.pending := rfl

/-! ### storeWrite -/

@[simp] theorem storeWrite_slots (a : Nat) (bs : List Byte) (s : State) :
    (storeWrite a bs s).slots = s.slots := rfl
@[simp] theorem storeWrite_groups (a : Nat) (bs : List Byte) (s : State) :
    (storeWrite a bs s).groups = s.groups := rfl
@[simp] theorem storeWrite_storeStrap (a : Nat) (bs : List Byte) (s : State) :
    (storeWrite a bs s).storeStrap = s.storeStrap := rfl
@[simp] theorem storeWrite_ports (a : Nat) (bs : List Byte) (s : State) :
    (storeWrite a bs s).ports = s.ports := rfl
@[simp] theorem storeWrite_grant (a : Nat) (bs : List Byte) (s : State) :
    (storeWrite a bs s).grant = s.grant := rfl
@[simp] theorem storeWrite_pointer (a : Nat) (bs : List Byte) (s : State) :
    (storeWrite a bs s).pointer = s.pointer := rfl
@[simp] theorem storeWrite_free (a : Nat) (bs : List Byte) (s : State) :
    (storeWrite a bs s).free = s.free := rfl
@[simp] theorem storeWrite_urgency (a : Nat) (bs : List Byte) (s : State) :
    (storeWrite a bs s).urgency = s.urgency := rfl
@[simp] theorem storeWrite_pubUnit (a : Nat) (bs : List Byte) (s : State) :
    (storeWrite a bs s).pubUnit = s.pubUnit := rfl
@[simp] theorem storeWrite_continues (a : Nat) (bs : List Byte) (s : State) :
    (storeWrite a bs s).continues = s.continues := rfl
@[simp] theorem storeWrite_engine (a : Nat) (bs : List Byte) (s : State) :
    (storeWrite a bs s).engine = s.engine := rfl
@[simp] theorem storeWrite_locks (a : Nat) (bs : List Byte) (s : State) :
    (storeWrite a bs s).locks = s.locks := rfl
@[simp] theorem storeWrite_holdLimit (a : Nat) (bs : List Byte) (s : State) :
    (storeWrite a bs s).holdLimit = s.holdLimit := rfl
@[simp] theorem storeWrite_guards (a : Nat) (bs : List Byte) (s : State) :
    (storeWrite a bs s).guards = s.guards := rfl
@[simp] theorem storeWrite_cmd (a : Nat) (bs : List Byte) (s : State) :
    (storeWrite a bs s).cmd = s.cmd := rfl
@[simp] theorem storeWrite_events (a : Nat) (bs : List Byte) (s : State) :
    (storeWrite a bs s).events = s.events := rfl
@[simp] theorem storeWrite_inReset (a : Nat) (bs : List Byte) (s : State) :
    (storeWrite a bs s).inReset = s.inReset := rfl
@[simp] theorem storeWrite_store (a : Nat) (bs : List Byte) (s : State) :
    (storeWrite a bs s).store = Memory.write s.store a bs := rfl
@[simp] theorem storeWrite_fresh (a : Nat) (bs : List Byte) (s : State) :
    (storeWrite a bs s).fresh = s.fresh := rfl
@[simp] theorem storeWrite_pending (a : Nat) (bs : List Byte) (s : State) :
    (storeWrite a bs s).pending = s.pending := rfl

/-! ### storeWriteFailed -/

@[simp] theorem storeWriteFailed_slots (a n : Nat) (s : State) :
    (storeWriteFailed a n s).slots = s.slots := rfl
@[simp] theorem storeWriteFailed_groups (a n : Nat) (s : State) :
    (storeWriteFailed a n s).groups = s.groups := rfl
@[simp] theorem storeWriteFailed_storeStrap (a n : Nat) (s : State) :
    (storeWriteFailed a n s).storeStrap = s.storeStrap := rfl
@[simp] theorem storeWriteFailed_ports (a n : Nat) (s : State) :
    (storeWriteFailed a n s).ports = s.ports := rfl
@[simp] theorem storeWriteFailed_grant (a n : Nat) (s : State) :
    (storeWriteFailed a n s).grant = s.grant := rfl
@[simp] theorem storeWriteFailed_pointer (a n : Nat) (s : State) :
    (storeWriteFailed a n s).pointer = s.pointer := rfl
@[simp] theorem storeWriteFailed_free (a n : Nat) (s : State) :
    (storeWriteFailed a n s).free = s.free := rfl
@[simp] theorem storeWriteFailed_urgency (a n : Nat) (s : State) :
    (storeWriteFailed a n s).urgency = s.urgency := rfl
@[simp] theorem storeWriteFailed_pubUnit (a n : Nat) (s : State) :
    (storeWriteFailed a n s).pubUnit = s.pubUnit := rfl
@[simp] theorem storeWriteFailed_continues (a n : Nat) (s : State) :
    (storeWriteFailed a n s).continues = s.continues := rfl
@[simp] theorem storeWriteFailed_engine (a n : Nat) (s : State) :
    (storeWriteFailed a n s).engine = s.engine := rfl
@[simp] theorem storeWriteFailed_locks (a n : Nat) (s : State) :
    (storeWriteFailed a n s).locks = s.locks := rfl
@[simp] theorem storeWriteFailed_holdLimit (a n : Nat) (s : State) :
    (storeWriteFailed a n s).holdLimit = s.holdLimit := rfl
@[simp] theorem storeWriteFailed_guards (a n : Nat) (s : State) :
    (storeWriteFailed a n s).guards = s.guards := rfl
@[simp] theorem storeWriteFailed_cmd (a n : Nat) (s : State) :
    (storeWriteFailed a n s).cmd = s.cmd := rfl
@[simp] theorem storeWriteFailed_events (a n : Nat) (s : State) :
    (storeWriteFailed a n s).events = s.events := rfl
@[simp] theorem storeWriteFailed_inReset (a n : Nat) (s : State) :
    (storeWriteFailed a n s).inReset = s.inReset := rfl
@[simp] theorem storeWriteFailed_store (a n : Nat) (s : State) :
    (storeWriteFailed a n s).store = Memory.write s.store a (unstatedBytes s.fresh a n) := rfl
@[simp] theorem storeWriteFailed_fresh (a n : Nat) (s : State) :
    (storeWriteFailed a n s).fresh = s.fresh + 1 := rfl
@[simp] theorem storeWriteFailed_pending (a n : Nat) (s : State) :
    (storeWriteFailed a n s).pending = s.pending := rfl

/-! ### complete -/

@[simp] theorem complete_slots (st : Status) (res : List Word) (s : State) :
    (complete st res s).slots = s.slots := rfl
@[simp] theorem complete_groups (st : Status) (res : List Word) (s : State) :
    (complete st res s).groups = s.groups := rfl
@[simp] theorem complete_storeStrap (st : Status) (res : List Word) (s : State) :
    (complete st res s).storeStrap = s.storeStrap := rfl
@[simp] theorem complete_ports (st : Status) (res : List Word) (s : State) :
    (complete st res s).ports = s.ports := rfl
@[simp] theorem complete_grant (st : Status) (res : List Word) (s : State) :
    (complete st res s).grant = s.grant := rfl
@[simp] theorem complete_pointer (st : Status) (res : List Word) (s : State) :
    (complete st res s).pointer = s.pointer := rfl
@[simp] theorem complete_free (st : Status) (res : List Word) (s : State) :
    (complete st res s).free = s.free := rfl
@[simp] theorem complete_urgency (st : Status) (res : List Word) (s : State) :
    (complete st res s).urgency = s.urgency := rfl
@[simp] theorem complete_pubUnit (st : Status) (res : List Word) (s : State) :
    (complete st res s).pubUnit = s.pubUnit := rfl
@[simp] theorem complete_continues (st : Status) (res : List Word) (s : State) :
    (complete st res s).continues = s.continues := rfl
@[simp] theorem complete_engine (st : Status) (res : List Word) (s : State) :
    (complete st res s).engine = s.engine := rfl
@[simp] theorem complete_locks (st : Status) (res : List Word) (s : State) :
    (complete st res s).locks = s.locks := rfl
@[simp] theorem complete_holdLimit (st : Status) (res : List Word) (s : State) :
    (complete st res s).holdLimit = s.holdLimit := rfl
@[simp] theorem complete_guards (st : Status) (res : List Word) (s : State) :
    (complete st res s).guards = s.guards := rfl
@[simp] theorem complete_events (st : Status) (res : List Word) (s : State) :
    (complete st res s).events = s.events := rfl
@[simp] theorem complete_inReset (st : Status) (res : List Word) (s : State) :
    (complete st res s).inReset = s.inReset := rfl
@[simp] theorem complete_store (st : Status) (res : List Word) (s : State) :
    (complete st res s).store = s.store := rfl
@[simp] theorem complete_fresh (st : Status) (res : List Word) (s : State) :
    (complete st res s).fresh = s.fresh := rfl
@[simp] theorem complete_pending (st : Status) (res : List Word) (s : State) :
    (complete st res s).pending = s.pending := rfl

/-! ### acceptCommand -/

@[simp] theorem acceptCommand_slots (code cnt : BitVec 8) (s : State) :
    (acceptCommand code cnt s).slots = s.slots := rfl
@[simp] theorem acceptCommand_groups (code cnt : BitVec 8) (s : State) :
    (acceptCommand code cnt s).groups = s.groups := rfl
@[simp] theorem acceptCommand_storeStrap (code cnt : BitVec 8) (s : State) :
    (acceptCommand code cnt s).storeStrap = s.storeStrap := rfl
@[simp] theorem acceptCommand_ports (code cnt : BitVec 8) (s : State) :
    (acceptCommand code cnt s).ports = s.ports := rfl
@[simp] theorem acceptCommand_grant (code cnt : BitVec 8) (s : State) :
    (acceptCommand code cnt s).grant = s.grant := rfl
@[simp] theorem acceptCommand_pointer (code cnt : BitVec 8) (s : State) :
    (acceptCommand code cnt s).pointer = s.pointer := rfl
@[simp] theorem acceptCommand_free (code cnt : BitVec 8) (s : State) :
    (acceptCommand code cnt s).free = s.free := rfl
@[simp] theorem acceptCommand_urgency (code cnt : BitVec 8) (s : State) :
    (acceptCommand code cnt s).urgency = s.urgency := rfl
@[simp] theorem acceptCommand_pubUnit (code cnt : BitVec 8) (s : State) :
    (acceptCommand code cnt s).pubUnit = s.pubUnit := rfl
@[simp] theorem acceptCommand_continues (code cnt : BitVec 8) (s : State) :
    (acceptCommand code cnt s).continues = s.continues := rfl
@[simp] theorem acceptCommand_engine (code cnt : BitVec 8) (s : State) :
    (acceptCommand code cnt s).engine = s.engine := rfl
@[simp] theorem acceptCommand_locks (code cnt : BitVec 8) (s : State) :
    (acceptCommand code cnt s).locks = s.locks := rfl
@[simp] theorem acceptCommand_holdLimit (code cnt : BitVec 8) (s : State) :
    (acceptCommand code cnt s).holdLimit = s.holdLimit := rfl
@[simp] theorem acceptCommand_guards (code cnt : BitVec 8) (s : State) :
    (acceptCommand code cnt s).guards = s.guards := rfl
@[simp] theorem acceptCommand_events (code cnt : BitVec 8) (s : State) :
    (acceptCommand code cnt s).events = s.events := rfl
@[simp] theorem acceptCommand_inReset (code cnt : BitVec 8) (s : State) :
    (acceptCommand code cnt s).inReset = s.inReset := rfl
@[simp] theorem acceptCommand_store (code cnt : BitVec 8) (s : State) :
    (acceptCommand code cnt s).store = s.store := rfl
@[simp] theorem acceptCommand_fresh (code cnt : BitVec 8) (s : State) :
    (acceptCommand code cnt s).fresh = s.fresh := rfl
@[simp] theorem acceptCommand_pending (code cnt : BitVec 8) (s : State) :
    (acceptCommand code cnt s).pending = s.pending := rfl

/-! ### ignoreCommand -/

@[simp] theorem ignoreCommand_slots (s : State) :
    (ignoreCommand s).slots = s.slots := rfl
@[simp] theorem ignoreCommand_groups (s : State) :
    (ignoreCommand s).groups = s.groups := rfl
@[simp] theorem ignoreCommand_storeStrap (s : State) :
    (ignoreCommand s).storeStrap = s.storeStrap := rfl
@[simp] theorem ignoreCommand_ports (s : State) :
    (ignoreCommand s).ports = s.ports := rfl
@[simp] theorem ignoreCommand_grant (s : State) :
    (ignoreCommand s).grant = s.grant := rfl
@[simp] theorem ignoreCommand_pointer (s : State) :
    (ignoreCommand s).pointer = s.pointer := rfl
@[simp] theorem ignoreCommand_free (s : State) :
    (ignoreCommand s).free = s.free := rfl
@[simp] theorem ignoreCommand_urgency (s : State) :
    (ignoreCommand s).urgency = s.urgency := rfl
@[simp] theorem ignoreCommand_pubUnit (s : State) :
    (ignoreCommand s).pubUnit = s.pubUnit := rfl
@[simp] theorem ignoreCommand_continues (s : State) :
    (ignoreCommand s).continues = s.continues := rfl
@[simp] theorem ignoreCommand_engine (s : State) :
    (ignoreCommand s).engine = s.engine := rfl
@[simp] theorem ignoreCommand_locks (s : State) :
    (ignoreCommand s).locks = s.locks := rfl
@[simp] theorem ignoreCommand_holdLimit (s : State) :
    (ignoreCommand s).holdLimit = s.holdLimit := rfl
@[simp] theorem ignoreCommand_guards (s : State) :
    (ignoreCommand s).guards = s.guards := rfl
@[simp] theorem ignoreCommand_events (s : State) :
    (ignoreCommand s).events = s.events := rfl
@[simp] theorem ignoreCommand_inReset (s : State) :
    (ignoreCommand s).inReset = s.inReset := rfl
@[simp] theorem ignoreCommand_store (s : State) :
    (ignoreCommand s).store = s.store := rfl
@[simp] theorem ignoreCommand_fresh (s : State) :
    (ignoreCommand s).fresh = s.fresh := rfl
@[simp] theorem ignoreCommand_pending (s : State) :
    (ignoreCommand s).pending = s.pending := rfl

/-! ### setPort -/

@[simp] theorem setPort_slots (p : PortId) (x : Port) (s : State) :
    (s.setPort p x).slots = s.slots := rfl
@[simp] theorem setPort_groups (p : PortId) (x : Port) (s : State) :
    (s.setPort p x).groups = s.groups := rfl
@[simp] theorem setPort_storeStrap (p : PortId) (x : Port) (s : State) :
    (s.setPort p x).storeStrap = s.storeStrap := rfl
@[simp] theorem setPort_ports (p : PortId) (x : Port) (s : State) :
    (s.setPort p x).ports = s.ports.set p x := rfl
@[simp] theorem setPort_grant (p : PortId) (x : Port) (s : State) :
    (s.setPort p x).grant = s.grant := rfl
@[simp] theorem setPort_pointer (p : PortId) (x : Port) (s : State) :
    (s.setPort p x).pointer = s.pointer := rfl
@[simp] theorem setPort_free (p : PortId) (x : Port) (s : State) :
    (s.setPort p x).free = s.free := rfl
@[simp] theorem setPort_urgency (p : PortId) (x : Port) (s : State) :
    (s.setPort p x).urgency = s.urgency := rfl
@[simp] theorem setPort_pubUnit (p : PortId) (x : Port) (s : State) :
    (s.setPort p x).pubUnit = s.pubUnit := rfl
@[simp] theorem setPort_continues (p : PortId) (x : Port) (s : State) :
    (s.setPort p x).continues = s.continues := rfl
@[simp] theorem setPort_engine (p : PortId) (x : Port) (s : State) :
    (s.setPort p x).engine = s.engine := rfl
@[simp] theorem setPort_locks (p : PortId) (x : Port) (s : State) :
    (s.setPort p x).locks = s.locks := rfl
@[simp] theorem setPort_holdLimit (p : PortId) (x : Port) (s : State) :
    (s.setPort p x).holdLimit = s.holdLimit := rfl
@[simp] theorem setPort_guards (p : PortId) (x : Port) (s : State) :
    (s.setPort p x).guards = s.guards := rfl
@[simp] theorem setPort_cmd (p : PortId) (x : Port) (s : State) :
    (s.setPort p x).cmd = s.cmd := rfl
@[simp] theorem setPort_events (p : PortId) (x : Port) (s : State) :
    (s.setPort p x).events = s.events := rfl
@[simp] theorem setPort_inReset (p : PortId) (x : Port) (s : State) :
    (s.setPort p x).inReset = s.inReset := rfl
@[simp] theorem setPort_store (p : PortId) (x : Port) (s : State) :
    (s.setPort p x).store = s.store := rfl
@[simp] theorem setPort_fresh (p : PortId) (x : Port) (s : State) :
    (s.setPort p x).fresh = s.fresh := rfl
@[simp] theorem setPort_pending (p : PortId) (x : Port) (s : State) :
    (s.setPort p x).pending = s.pending := rfl

/-! ### respond -/

@[simp] theorem respond_slots (p : PortId) (r : Resp) (bytes : List Byte) (s : State) :
    (respond p r bytes s).slots = s.slots := rfl
@[simp] theorem respond_groups (p : PortId) (r : Resp) (bytes : List Byte) (s : State) :
    (respond p r bytes s).groups = s.groups := rfl
@[simp] theorem respond_storeStrap (p : PortId) (r : Resp) (bytes : List Byte) (s : State) :
    (respond p r bytes s).storeStrap = s.storeStrap := rfl
@[simp] theorem respond_grant (p : PortId) (r : Resp) (bytes : List Byte) (s : State) :
    (respond p r bytes s).grant = s.grant := rfl
@[simp] theorem respond_pointer (p : PortId) (r : Resp) (bytes : List Byte) (s : State) :
    (respond p r bytes s).pointer = s.pointer := rfl
@[simp] theorem respond_free (p : PortId) (r : Resp) (bytes : List Byte) (s : State) :
    (respond p r bytes s).free = s.free := rfl
@[simp] theorem respond_urgency (p : PortId) (r : Resp) (bytes : List Byte) (s : State) :
    (respond p r bytes s).urgency = s.urgency := rfl
@[simp] theorem respond_pubUnit (p : PortId) (r : Resp) (bytes : List Byte) (s : State) :
    (respond p r bytes s).pubUnit = s.pubUnit := rfl
@[simp] theorem respond_continues (p : PortId) (r : Resp) (bytes : List Byte) (s : State) :
    (respond p r bytes s).continues = s.continues := rfl
@[simp] theorem respond_engine (p : PortId) (r : Resp) (bytes : List Byte) (s : State) :
    (respond p r bytes s).engine = s.engine := rfl
@[simp] theorem respond_locks (p : PortId) (r : Resp) (bytes : List Byte) (s : State) :
    (respond p r bytes s).locks = s.locks := rfl
@[simp] theorem respond_holdLimit (p : PortId) (r : Resp) (bytes : List Byte) (s : State) :
    (respond p r bytes s).holdLimit = s.holdLimit := rfl
@[simp] theorem respond_guards (p : PortId) (r : Resp) (bytes : List Byte) (s : State) :
    (respond p r bytes s).guards = s.guards := rfl
@[simp] theorem respond_cmd (p : PortId) (r : Resp) (bytes : List Byte) (s : State) :
    (respond p r bytes s).cmd = s.cmd := rfl
@[simp] theorem respond_events (p : PortId) (r : Resp) (bytes : List Byte) (s : State) :
    (respond p r bytes s).events = s.events := rfl
@[simp] theorem respond_inReset (p : PortId) (r : Resp) (bytes : List Byte) (s : State) :
    (respond p r bytes s).inReset = s.inReset := rfl
@[simp] theorem respond_store (p : PortId) (r : Resp) (bytes : List Byte) (s : State) :
    (respond p r bytes s).store = s.store := rfl
@[simp] theorem respond_fresh (p : PortId) (r : Resp) (bytes : List Byte) (s : State) :
    (respond p r bytes s).fresh = s.fresh := rfl
@[simp] theorem respond_pending (p : PortId) (r : Resp) (bytes : List Byte) (s : State) :
    (respond p r bytes s).pending = s.pending := rfl

/-! ### setStage -/

@[simp] theorem setStage_slots (p : PortId) (a : Access) (st : Stage) (s : State) :
    (setStage p a st s).slots = s.slots := rfl
@[simp] theorem setStage_groups (p : PortId) (a : Access) (st : Stage) (s : State) :
    (setStage p a st s).groups = s.groups := rfl
@[simp] theorem setStage_storeStrap (p : PortId) (a : Access) (st : Stage) (s : State) :
    (setStage p a st s).storeStrap = s.storeStrap := rfl
@[simp] theorem setStage_grant (p : PortId) (a : Access) (st : Stage) (s : State) :
    (setStage p a st s).grant = s.grant := rfl
@[simp] theorem setStage_pointer (p : PortId) (a : Access) (st : Stage) (s : State) :
    (setStage p a st s).pointer = s.pointer := rfl
@[simp] theorem setStage_free (p : PortId) (a : Access) (st : Stage) (s : State) :
    (setStage p a st s).free = s.free := rfl
@[simp] theorem setStage_urgency (p : PortId) (a : Access) (st : Stage) (s : State) :
    (setStage p a st s).urgency = s.urgency := rfl
@[simp] theorem setStage_pubUnit (p : PortId) (a : Access) (st : Stage) (s : State) :
    (setStage p a st s).pubUnit = s.pubUnit := rfl
@[simp] theorem setStage_continues (p : PortId) (a : Access) (st : Stage) (s : State) :
    (setStage p a st s).continues = s.continues := rfl
@[simp] theorem setStage_engine (p : PortId) (a : Access) (st : Stage) (s : State) :
    (setStage p a st s).engine = s.engine := rfl
@[simp] theorem setStage_locks (p : PortId) (a : Access) (st : Stage) (s : State) :
    (setStage p a st s).locks = s.locks := rfl
@[simp] theorem setStage_holdLimit (p : PortId) (a : Access) (st : Stage) (s : State) :
    (setStage p a st s).holdLimit = s.holdLimit := rfl
@[simp] theorem setStage_guards (p : PortId) (a : Access) (st : Stage) (s : State) :
    (setStage p a st s).guards = s.guards := rfl
@[simp] theorem setStage_cmd (p : PortId) (a : Access) (st : Stage) (s : State) :
    (setStage p a st s).cmd = s.cmd := rfl
@[simp] theorem setStage_events (p : PortId) (a : Access) (st : Stage) (s : State) :
    (setStage p a st s).events = s.events := rfl
@[simp] theorem setStage_inReset (p : PortId) (a : Access) (st : Stage) (s : State) :
    (setStage p a st s).inReset = s.inReset := rfl
@[simp] theorem setStage_store (p : PortId) (a : Access) (st : Stage) (s : State) :
    (setStage p a st s).store = s.store := rfl
@[simp] theorem setStage_fresh (p : PortId) (a : Access) (st : Stage) (s : State) :
    (setStage p a st s).fresh = s.fresh := rfl
@[simp] theorem setStage_pending (p : PortId) (a : Access) (st : Stage) (s : State) :
    (setStage p a st s).pending = s.pending := rfl

/-! ### beginStore -/

@[simp] theorem beginStore_slots (p : PortId) (a : Access) (s : State) :
    (beginStore p a s).slots = s.slots := rfl
@[simp] theorem beginStore_groups (p : PortId) (a : Access) (s : State) :
    (beginStore p a s).groups = s.groups := rfl
@[simp] theorem beginStore_storeStrap (p : PortId) (a : Access) (s : State) :
    (beginStore p a s).storeStrap = s.storeStrap := rfl
@[simp] theorem beginStore_grant (p : PortId) (a : Access) (s : State) :
    (beginStore p a s).grant = s.grant := rfl
@[simp] theorem beginStore_pointer (p : PortId) (a : Access) (s : State) :
    (beginStore p a s).pointer = s.pointer := rfl
@[simp] theorem beginStore_free (p : PortId) (a : Access) (s : State) :
    (beginStore p a s).free = s.free := rfl
@[simp] theorem beginStore_urgency (p : PortId) (a : Access) (s : State) :
    (beginStore p a s).urgency = s.urgency := rfl
@[simp] theorem beginStore_pubUnit (p : PortId) (a : Access) (s : State) :
    (beginStore p a s).pubUnit = s.pubUnit := rfl
@[simp] theorem beginStore_continues (p : PortId) (a : Access) (s : State) :
    (beginStore p a s).continues = s.continues := rfl
@[simp] theorem beginStore_engine (p : PortId) (a : Access) (s : State) :
    (beginStore p a s).engine = s.engine := rfl
@[simp] theorem beginStore_locks (p : PortId) (a : Access) (s : State) :
    (beginStore p a s).locks = s.locks := rfl
@[simp] theorem beginStore_holdLimit (p : PortId) (a : Access) (s : State) :
    (beginStore p a s).holdLimit = s.holdLimit := rfl
@[simp] theorem beginStore_guards (p : PortId) (a : Access) (s : State) :
    (beginStore p a s).guards = s.guards := rfl
@[simp] theorem beginStore_cmd (p : PortId) (a : Access) (s : State) :
    (beginStore p a s).cmd = s.cmd := rfl
@[simp] theorem beginStore_events (p : PortId) (a : Access) (s : State) :
    (beginStore p a s).events = s.events := rfl
@[simp] theorem beginStore_inReset (p : PortId) (a : Access) (s : State) :
    (beginStore p a s).inReset = s.inReset := rfl
@[simp] theorem beginStore_store (p : PortId) (a : Access) (s : State) :
    (beginStore p a s).store = s.store := rfl
@[simp] theorem beginStore_fresh (p : PortId) (a : Access) (s : State) :
    (beginStore p a s).fresh = s.fresh := rfl
@[simp] theorem beginStore_pending (p : PortId) (a : Access) (s : State) :
    (beginStore p a s).pending = s.pending := rfl

/-! ### giveUp -/

@[simp] theorem giveUp_slots (s : State) :
    (giveUp s).slots = s.slots := rfl
@[simp] theorem giveUp_groups (s : State) :
    (giveUp s).groups = s.groups := rfl
@[simp] theorem giveUp_storeStrap (s : State) :
    (giveUp s).storeStrap = s.storeStrap := rfl
@[simp] theorem giveUp_ports (s : State) :
    (giveUp s).ports = s.ports := rfl
@[simp] theorem giveUp_grant (s : State) :
    (giveUp s).grant = none := rfl
@[simp] theorem giveUp_pointer (s : State) :
    (giveUp s).pointer = s.pointer := rfl
@[simp] theorem giveUp_free (s : State) :
    (giveUp s).free = s.free := rfl
@[simp] theorem giveUp_urgency (s : State) :
    (giveUp s).urgency = s.urgency := rfl
@[simp] theorem giveUp_pubUnit (s : State) :
    (giveUp s).pubUnit = s.pubUnit := rfl
@[simp] theorem giveUp_continues (s : State) :
    (giveUp s).continues = s.continues := rfl
@[simp] theorem giveUp_engine (s : State) :
    (giveUp s).engine = s.engine := rfl
@[simp] theorem giveUp_locks (s : State) :
    (giveUp s).locks = s.locks := rfl
@[simp] theorem giveUp_holdLimit (s : State) :
    (giveUp s).holdLimit = s.holdLimit := rfl
@[simp] theorem giveUp_guards (s : State) :
    (giveUp s).guards = s.guards := rfl
@[simp] theorem giveUp_cmd (s : State) :
    (giveUp s).cmd = s.cmd := rfl
@[simp] theorem giveUp_events (s : State) :
    (giveUp s).events = s.events := rfl
@[simp] theorem giveUp_inReset (s : State) :
    (giveUp s).inReset = s.inReset := rfl
@[simp] theorem giveUp_store (s : State) :
    (giveUp s).store = s.store := rfl
@[simp] theorem giveUp_fresh (s : State) :
    (giveUp s).fresh = s.fresh := rfl
@[simp] theorem giveUp_pending (s : State) :
    (giveUp s).pending = s.pending := rfl

/-! ### unitReady -/

@[simp] theorem unitReady_slots (s : State) :
    (unitReady s).slots = s.slots := rfl
@[simp] theorem unitReady_groups (s : State) :
    (unitReady s).groups = s.groups := rfl
@[simp] theorem unitReady_storeStrap (s : State) :
    (unitReady s).storeStrap = s.storeStrap := rfl
@[simp] theorem unitReady_ports (s : State) :
    (unitReady s).ports = s.ports := rfl
@[simp] theorem unitReady_grant (s : State) :
    (unitReady s).grant = s.grant := rfl
@[simp] theorem unitReady_pointer (s : State) :
    (unitReady s).pointer = s.pointer := rfl
@[simp] theorem unitReady_free (s : State) :
    (unitReady s).free = s.free := rfl
@[simp] theorem unitReady_urgency (s : State) :
    (unitReady s).urgency = s.urgency := rfl
@[simp] theorem unitReady_pubUnit (s : State) :
    (unitReady s).pubUnit = .ready := rfl
@[simp] theorem unitReady_continues (s : State) :
    (unitReady s).continues = s.continues := rfl
@[simp] theorem unitReady_engine (s : State) :
    (unitReady s).engine = s.engine := rfl
@[simp] theorem unitReady_locks (s : State) :
    (unitReady s).locks = s.locks := rfl
@[simp] theorem unitReady_holdLimit (s : State) :
    (unitReady s).holdLimit = s.holdLimit := rfl
@[simp] theorem unitReady_guards (s : State) :
    (unitReady s).guards = s.guards := rfl
@[simp] theorem unitReady_cmd (s : State) :
    (unitReady s).cmd = s.cmd := rfl
@[simp] theorem unitReady_events (s : State) :
    (unitReady s).events = s.events := rfl
@[simp] theorem unitReady_inReset (s : State) :
    (unitReady s).inReset = s.inReset := rfl
@[simp] theorem unitReady_store (s : State) :
    (unitReady s).store = s.store := rfl
@[simp] theorem unitReady_fresh (s : State) :
    (unitReady s).fresh = s.fresh := rfl
@[simp] theorem unitReady_pending (s : State) :
    (unitReady s).pending = s.pending := rfl

/-! ### modEngine -/

@[simp] theorem modEngine_slots (f : Engine → Engine) (s : State) :
    (modEngine f s).slots = s.slots := rfl
@[simp] theorem modEngine_groups (f : Engine → Engine) (s : State) :
    (modEngine f s).groups = s.groups := rfl
@[simp] theorem modEngine_storeStrap (f : Engine → Engine) (s : State) :
    (modEngine f s).storeStrap = s.storeStrap := rfl
@[simp] theorem modEngine_ports (f : Engine → Engine) (s : State) :
    (modEngine f s).ports = s.ports := rfl
@[simp] theorem modEngine_grant (f : Engine → Engine) (s : State) :
    (modEngine f s).grant = s.grant := rfl
@[simp] theorem modEngine_pointer (f : Engine → Engine) (s : State) :
    (modEngine f s).pointer = s.pointer := rfl
@[simp] theorem modEngine_free (f : Engine → Engine) (s : State) :
    (modEngine f s).free = s.free := rfl
@[simp] theorem modEngine_urgency (f : Engine → Engine) (s : State) :
    (modEngine f s).urgency = s.urgency := rfl
@[simp] theorem modEngine_pubUnit (f : Engine → Engine) (s : State) :
    (modEngine f s).pubUnit = s.pubUnit := rfl
@[simp] theorem modEngine_continues (f : Engine → Engine) (s : State) :
    (modEngine f s).continues = s.continues := rfl
@[simp] theorem modEngine_engine (f : Engine → Engine) (s : State) :
    (modEngine f s).engine = f s.engine := rfl
@[simp] theorem modEngine_locks (f : Engine → Engine) (s : State) :
    (modEngine f s).locks = s.locks := rfl
@[simp] theorem modEngine_holdLimit (f : Engine → Engine) (s : State) :
    (modEngine f s).holdLimit = s.holdLimit := rfl
@[simp] theorem modEngine_guards (f : Engine → Engine) (s : State) :
    (modEngine f s).guards = s.guards := rfl
@[simp] theorem modEngine_cmd (f : Engine → Engine) (s : State) :
    (modEngine f s).cmd = s.cmd := rfl
@[simp] theorem modEngine_events (f : Engine → Engine) (s : State) :
    (modEngine f s).events = s.events := rfl
@[simp] theorem modEngine_inReset (f : Engine → Engine) (s : State) :
    (modEngine f s).inReset = s.inReset := rfl
@[simp] theorem modEngine_store (f : Engine → Engine) (s : State) :
    (modEngine f s).store = s.store := rfl
@[simp] theorem modEngine_fresh (f : Engine → Engine) (s : State) :
    (modEngine f s).fresh = s.fresh := rfl
@[simp] theorem modEngine_pending (f : Engine → Engine) (s : State) :
    (modEngine f s).pending = s.pending := rfl

/-! ### writeOperand -/

@[simp] theorem writeOperand_slots (n : Fin 8) (v : Word) (s : State) :
    (writeOperand n v s).slots = s.slots := rfl
@[simp] theorem writeOperand_groups (n : Fin 8) (v : Word) (s : State) :
    (writeOperand n v s).groups = s.groups := rfl
@[simp] theorem writeOperand_storeStrap (n : Fin 8) (v : Word) (s : State) :
    (writeOperand n v s).storeStrap = s.storeStrap := rfl
@[simp] theorem writeOperand_ports (n : Fin 8) (v : Word) (s : State) :
    (writeOperand n v s).ports = s.ports := rfl
@[simp] theorem writeOperand_grant (n : Fin 8) (v : Word) (s : State) :
    (writeOperand n v s).grant = s.grant := rfl
@[simp] theorem writeOperand_pointer (n : Fin 8) (v : Word) (s : State) :
    (writeOperand n v s).pointer = s.pointer := rfl
@[simp] theorem writeOperand_free (n : Fin 8) (v : Word) (s : State) :
    (writeOperand n v s).free = s.free := rfl
@[simp] theorem writeOperand_urgency (n : Fin 8) (v : Word) (s : State) :
    (writeOperand n v s).urgency = s.urgency := rfl
@[simp] theorem writeOperand_pubUnit (n : Fin 8) (v : Word) (s : State) :
    (writeOperand n v s).pubUnit = s.pubUnit := rfl
@[simp] theorem writeOperand_continues (n : Fin 8) (v : Word) (s : State) :
    (writeOperand n v s).continues = s.continues := rfl
@[simp] theorem writeOperand_engine (n : Fin 8) (v : Word) (s : State) :
    (writeOperand n v s).engine = s.engine := rfl
@[simp] theorem writeOperand_locks (n : Fin 8) (v : Word) (s : State) :
    (writeOperand n v s).locks = s.locks := rfl
@[simp] theorem writeOperand_holdLimit (n : Fin 8) (v : Word) (s : State) :
    (writeOperand n v s).holdLimit = s.holdLimit := rfl
@[simp] theorem writeOperand_guards (n : Fin 8) (v : Word) (s : State) :
    (writeOperand n v s).guards = s.guards := rfl
@[simp] theorem writeOperand_events (n : Fin 8) (v : Word) (s : State) :
    (writeOperand n v s).events = s.events := rfl
@[simp] theorem writeOperand_inReset (n : Fin 8) (v : Word) (s : State) :
    (writeOperand n v s).inReset = s.inReset := rfl
@[simp] theorem writeOperand_store (n : Fin 8) (v : Word) (s : State) :
    (writeOperand n v s).store = s.store := rfl
@[simp] theorem writeOperand_fresh (n : Fin 8) (v : Word) (s : State) :
    (writeOperand n v s).fresh = s.fresh := rfl
@[simp] theorem writeOperand_pending (n : Fin 8) (v : Word) (s : State) :
    (writeOperand n v s).pending = s.pending := rfl

/-! ### clearEvents -/

@[simp] theorem clearEvents_slots (v : Word) (s : State) :
    (clearEvents v s).slots = s.slots := rfl
@[simp] theorem clearEvents_groups (v : Word) (s : State) :
    (clearEvents v s).groups = s.groups := rfl
@[simp] theorem clearEvents_storeStrap (v : Word) (s : State) :
    (clearEvents v s).storeStrap = s.storeStrap := rfl
@[simp] theorem clearEvents_ports (v : Word) (s : State) :
    (clearEvents v s).ports = s.ports := rfl
@[simp] theorem clearEvents_grant (v : Word) (s : State) :
    (clearEvents v s).grant = s.grant := rfl
@[simp] theorem clearEvents_pointer (v : Word) (s : State) :
    (clearEvents v s).pointer = s.pointer := rfl
@[simp] theorem clearEvents_free (v : Word) (s : State) :
    (clearEvents v s).free = s.free := rfl
@[simp] theorem clearEvents_urgency (v : Word) (s : State) :
    (clearEvents v s).urgency = s.urgency := rfl
@[simp] theorem clearEvents_pubUnit (v : Word) (s : State) :
    (clearEvents v s).pubUnit = s.pubUnit := rfl
@[simp] theorem clearEvents_continues (v : Word) (s : State) :
    (clearEvents v s).continues = s.continues := rfl
@[simp] theorem clearEvents_engine (v : Word) (s : State) :
    (clearEvents v s).engine = s.engine := rfl
@[simp] theorem clearEvents_locks (v : Word) (s : State) :
    (clearEvents v s).locks = s.locks := rfl
@[simp] theorem clearEvents_holdLimit (v : Word) (s : State) :
    (clearEvents v s).holdLimit = s.holdLimit := rfl
@[simp] theorem clearEvents_guards (v : Word) (s : State) :
    (clearEvents v s).guards = s.guards := rfl
@[simp] theorem clearEvents_cmd (v : Word) (s : State) :
    (clearEvents v s).cmd = s.cmd := rfl
@[simp] theorem clearEvents_inReset (v : Word) (s : State) :
    (clearEvents v s).inReset = s.inReset := rfl
@[simp] theorem clearEvents_store (v : Word) (s : State) :
    (clearEvents v s).store = s.store := rfl
@[simp] theorem clearEvents_fresh (v : Word) (s : State) :
    (clearEvents v s).fresh = s.fresh := rfl
@[simp] theorem clearEvents_pending (v : Word) (s : State) :
    (clearEvents v s).pending = s.pending := rfl

/-! ### writeEnables -/

@[simp] theorem writeEnables_slots (v : Word) (s : State) :
    (writeEnables v s).slots = s.slots := rfl
@[simp] theorem writeEnables_groups (v : Word) (s : State) :
    (writeEnables v s).groups = s.groups := rfl
@[simp] theorem writeEnables_storeStrap (v : Word) (s : State) :
    (writeEnables v s).storeStrap = s.storeStrap := rfl
@[simp] theorem writeEnables_ports (v : Word) (s : State) :
    (writeEnables v s).ports = s.ports := rfl
@[simp] theorem writeEnables_grant (v : Word) (s : State) :
    (writeEnables v s).grant = s.grant := rfl
@[simp] theorem writeEnables_pointer (v : Word) (s : State) :
    (writeEnables v s).pointer = s.pointer := rfl
@[simp] theorem writeEnables_free (v : Word) (s : State) :
    (writeEnables v s).free = s.free := rfl
@[simp] theorem writeEnables_urgency (v : Word) (s : State) :
    (writeEnables v s).urgency = s.urgency := rfl
@[simp] theorem writeEnables_pubUnit (v : Word) (s : State) :
    (writeEnables v s).pubUnit = s.pubUnit := rfl
@[simp] theorem writeEnables_continues (v : Word) (s : State) :
    (writeEnables v s).continues = s.continues := rfl
@[simp] theorem writeEnables_engine (v : Word) (s : State) :
    (writeEnables v s).engine = s.engine := rfl
@[simp] theorem writeEnables_locks (v : Word) (s : State) :
    (writeEnables v s).locks = s.locks := rfl
@[simp] theorem writeEnables_holdLimit (v : Word) (s : State) :
    (writeEnables v s).holdLimit = s.holdLimit := rfl
@[simp] theorem writeEnables_guards (v : Word) (s : State) :
    (writeEnables v s).guards = s.guards := rfl
@[simp] theorem writeEnables_cmd (v : Word) (s : State) :
    (writeEnables v s).cmd = s.cmd := rfl
@[simp] theorem writeEnables_inReset (v : Word) (s : State) :
    (writeEnables v s).inReset = s.inReset := rfl
@[simp] theorem writeEnables_store (v : Word) (s : State) :
    (writeEnables v s).store = s.store := rfl
@[simp] theorem writeEnables_fresh (v : Word) (s : State) :
    (writeEnables v s).fresh = s.fresh := rfl
@[simp] theorem writeEnables_pending (v : Word) (s : State) :
    (writeEnables v s).pending = s.pending := rfl

end Sys2Proof.Machine
end

