-- ==== Sys2Proof/Laws/Tables.lean ====
section
/-! SUPPORT. Reading one entry of a table after writing one: slots, locks, guards, ports. -/

namespace Sys2Proof.Machine

/-! ### Slots -/

@[simp] theorem slot_setSlot_same (i : SlotId) (x : Slot) (s : State) : (s.setSlot i x).slot i = x := by
  simp [State.slot]

theorem slot_setSlot_other {i j : SlotId} (x : Slot) (s : State) (h : i ≠ j) :
    (s.setSlot i x).slot j = s.slot j := by
  simp [State.slot, Fin.val_ne_of_ne h]

theorem slot_setSlot (i j : SlotId) (x : Slot) (s : State) :
    (s.setSlot i x).slot j = if i = j then x else s.slot j := by
  by_cases h : i = j
  · subst h; simp
  · simp [slot_setSlot_other x s h, h]

theorem slot_congr {s t : State} (h : s.slots = t.slots) (i : SlotId) : s.slot i = t.slot i := by
  simp [State.slot, h]

theorem window?_congr {s t : State} (h : s.slots = t.slots) (x : Handle) : s.window? x = t.window? x := by
  simp [State.window?, slot_congr h]

theorem paired?_congr {s t : State} (h : s.slots = t.slots) (x : Handle) : s.paired? x = t.paired? x := by
  simp [State.paired?, window?_congr h]

/-- A handle matches exactly when its slot holds its instance and a window (R10). -/
theorem window?_eq_some {s : State} {h : Handle} {w : Window} :
    s.window? h = some w ↔ (s.slot h.index).inst = h.inst ∧ (s.slot h.index).win = some w := by
  unfold State.window?
  split <;> simp_all

/-- A PAIRED window is matched exactly when the window is and its kind is PAIRED. -/
theorem paired?_eq_some {s : State} {h : Handle} {w : Window} {p : Paired} :
    s.paired? h = some (w, p) ↔ s.window? h = some w ∧ w.body = .paired p := by
  unfold State.paired?
  split
  · simp_all
  · rename_i v hv
    split
    · rename_i q hq
      constructor
      · rintro h; cases h; exact ⟨hv, hq⟩
      · rintro ⟨h, hb⟩
        rw [hv] at h; cases h
        rw [hq] at hb; cases hb; rfl
    all_goals
      rename_i hq
      refine Iff.intro (fun h => by cases h) ?_
      rintro ⟨h, hb⟩
      rw [hv] at h; cases h
      rw [hq] at hb; cases hb

theorem slot_setPaired (i j : SlotId) (w : Window) (p : Paired) (s : State) :
    (s.setPaired i w p).slot j =
      if i = j then { s.slot i with win := some { w with body := .paired p } } else s.slot j := by
  simp [State.setPaired, State.setWindow, slot_setSlot]

/-- A PAIRED window still matches when its PAIRED fields have been replaced. -/
theorem paired?_setPaired {s : State} {h : Handle} {w : Window} {p p' : Paired}
    (hp : s.paired? h = some (w, p)) :
    (s.setPaired h.index w p').paired? h = some ({ w with body := .paired p' }, p') := by
  rw [paired?_eq_some, window?_eq_some] at hp
  rw [paired?_eq_some, window?_eq_some]
  simp [slot_setPaired, hp.1.1]

theorem slot_setWindow (i j : SlotId) (w : Window) (s : State) :
    (s.setWindow i w).slot j = if i = j then { s.slot i with win := some w } else s.slot j := by
  simp [State.setWindow, slot_setSlot]

/-! ### Locks -/

@[simp] theorem lock_setLock_same (p : PortId) (l : Option Lock) (s : State) :
    (s.setLock p l).lock p = l := by
  simp [State.lock]

theorem lock_setLock (p q : PortId) (l : Option Lock) (s : State) :
    (s.setLock p l).lock q = if p = q then l else s.lock q := by
  by_cases h : p = q
  · subst h; simp
  · simp [State.lock, Fin.val_ne_of_ne h, h]

theorem lock_congr {s t : State} (h : s.locks = t.locks) (p : PortId) : s.lock p = t.lock p := by
  simp [State.lock, h]

theorem holds_congr {s t : State} (h : s.locks = t.locks) (p : PortId) (x : Handle) :
    s.holds p x = t.holds p x := by
  simp [State.holds, lock_congr h]

theorem lockHolder_congr {s t : State} (h : s.locks = t.locks) (x : Handle) :
    s.lockHolder x = t.lockHolder x := by
  simp [State.lockHolder, holds_congr h]

theorem isLocked_congr {s t : State} (h : s.locks = t.locks) (x : Handle) :
    s.isLocked x = t.isLocked x := by
  simp [State.isLocked, lockHolder_congr h]

theorem holds_iff {s : State} {p : PortId} {h : Handle} :
    s.holds p h = true ↔ ∃ l, s.lock p = some l ∧ l.window = h := by
  unfold State.holds
  split <;> simp_all

/-- A window is unlocked exactly when no port holds it. -/
theorem isLocked_eq_false {s : State} {h : Handle} :
    s.isLocked h = false ↔ ∀ p, s.holds p h = false := by
  simp [State.isLocked, State.lockHolder]

/-! ### Guards -/

@[simp] theorem guard_setGuard_same (g : GuardId) (x : Option Guard) (s : State) :
    (s.setGuard g x).guard g = x := by
  simp [State.guard]

theorem guard_setGuard (g k : GuardId) (x : Option Guard) (s : State) :
    (s.setGuard g x).guard k = if g = k then x else s.guard k := by
  by_cases h : g = k
  · subst h; simp
  · simp [State.guard, Fin.val_ne_of_ne h, h]

theorem guard_congr {s t : State} (h : s.guards = t.guards) (g : GuardId) : s.guard g = t.guard g := by
  simp [State.guard, h]

/-! ### Ports -/

@[simp] theorem port_setPort_same (p : PortId) (x : Port) (s : State) : (s.setPort p x).port p = x := by
  simp [State.port]

theorem port_setPort (p q : PortId) (x : Port) (s : State) :
    (s.setPort p x).port q = if p = q then x else s.port q := by
  by_cases h : p = q
  · subst h; simp
  · simp [State.port, Fin.val_ne_of_ne h, h]

theorem port_congr {s t : State} (h : s.ports = t.ports) (p : PortId) : s.port p = t.port p := by
  simp [State.port, h]

end Sys2Proof.Machine
end

