-- ==== Sys2Proof/Laws/Arbiter.lean ====
section
/-! SUPPORT. What a grant decision can change: the ports, the grant and its pointer, the lock and guard
tables, the continues and the events; and when it changes nothing. -/

namespace Sys2Proof.Machine

/-- The state changed in what a grant can reach alone. -/
def GrantOnly (s t : State) : Prop :=
  t = { s with
    ports := t.ports, grant := t.grant, pointer := t.pointer, locks := t.locks, guards := t.guards,
    continues := t.continues, events := t.events }

namespace GrantOnly

theorem refl (s : State) : GrantOnly s s := rfl

theorem trans {s t u : State} (h : GrantOnly s t) (k : GrantOnly t u) : GrantOnly s u := by
  unfold GrantOnly at *
  rw [k, h]

theorem slots {s t : State} (h : GrantOnly s t) : t.slots = s.slots := by rw [h]
theorem groups {s t : State} (h : GrantOnly s t) : t.groups = s.groups := by rw [h]
theorem storeStrap {s t : State} (h : GrantOnly s t) : t.storeStrap = s.storeStrap := by rw [h]
theorem free {s t : State} (h : GrantOnly s t) : t.free = s.free := by rw [h]
theorem urgency {s t : State} (h : GrantOnly s t) : t.urgency = s.urgency := by rw [h]
theorem pubUnit {s t : State} (h : GrantOnly s t) : t.pubUnit = s.pubUnit := by rw [h]
theorem engine {s t : State} (h : GrantOnly s t) : t.engine = s.engine := by rw [h]
theorem holdLimit {s t : State} (h : GrantOnly s t) : t.holdLimit = s.holdLimit := by rw [h]
theorem cmd {s t : State} (h : GrantOnly s t) : t.cmd = s.cmd := by rw [h]
theorem inReset {s t : State} (h : GrantOnly s t) : t.inReset = s.inReset := by rw [h]
theorem store {s t : State} (h : GrantOnly s t) : t.store = s.store := by rw [h]
theorem fresh {s t : State} (h : GrantOnly s t) : t.fresh = s.fresh := by rw [h]
theorem pending {s t : State} (h : GrantOnly s t) : t.pending = s.pending := by rw [h]

theorem window? {s t : State} (h : GrantOnly s t) (x : Handle) : t.window? x = s.window? x :=
  window?_congr h.slots x

theorem raise (e : Event) (s : State) : GrantOnly s (raise e s) := rfl

theorem setPort (p : PortId) (x : Port) (s : State) : GrantOnly s (s.setPort p x) := rfl

theorem setLock (p : PortId) (l : Option Lock) (s : State) : GrantOnly s (s.setLock p l) := rfl

theorem setGuard (g : GuardId) (x : Option Guard) (s : State) : GrantOnly s (s.setGuard g x) := rfl

theorem unlockNotice (h : Handle) (s : State) : GrantOnly s (unlockNotice h s) := by
  unfold Machine.unlockNotice
  split <;> rfl

theorem breakLock (p : PortId) (s : State) : GrantOnly s (breakLock p s) := by
  unfold Machine.breakLock
  split
  · rfl
  · exact (GrantOnly.trans (t := Machine.raise .lockBroken (s.setLock p none)) rfl (unlockNotice _ _))

theorem restoreLock (p : PortId) (h : Handle) (e : Nat) (s : State) : GrantOnly s (restoreLock p h e s) := by
  unfold Machine.restoreLock
  split
  · rfl
  · split
    · split
      · rfl
      · rfl
      · split
        · exact breakLock p s
        · rfl
    · rfl

theorem recordTrip (p : PortId) (h : Handle) (s : State) (c : HeldGuard × Word) :
    GrantOnly s (recordTrip p h s c) := by
  unfold Machine.recordTrip
  split
  · rfl
  · split <;> rfl

theorem recordTrips (p : PortId) (h : Handle) (cs : List (HeldGuard × Word)) (s : State) :
    GrantOnly s (recordTrips p h cs s) := by
  have fold : ∀ (l : List (HeldGuard × Word)) (t : State),
      GrantOnly t (l.foldl (Machine.recordTrip p h) t) := by
    intro l
    induction l with
    | nil => exact refl
    | cons c l ih => exact fun t => (recordTrip p h t c).trans (ih _)
  unfold Machine.recordTrips
  dsimp only
  split
  · rfl
  · exact (fold _ s).trans (raise _ _)

theorem accessFault (p : PortId) (c : AccessClass) (a : Word) (r : Resp) (i : Option SlotId) (s : State) :
    GrantOnly s (accessFault p c a r i s) := by
  unfold Machine.accessFault offerFault
  repeat' split
  all_goals rfl

theorem answer (p : PortId) (a : Access) (r : Resp) (b : List Byte) (s : State) :
    GrantOnly s (answer p a r b s) :=
  (accessFault p a.cls a.addr r (some a.handle.index) s).trans (setPort p _ _)

theorem refuse (p : PortId) (a : Access) (r : Resp) (s : State) : GrantOnly s (refuse p a r s) :=
  answer p a r _ s

theorem giveUp (s : State) : GrantOnly s (giveUp s) := rfl

theorem beginStore (p : PortId) (a : Access) (s : State) : GrantOnly s (beginStore p a s) := rfl

theorem finishCheck (p : PortId) (a : Access) (cs : List (HeldGuard × Word)) (e : Nat) (s : State) :
    GrantOnly s (finishCheck p a cs e s) := by
  unfold Machine.finishCheck
  split
  · refine GrantOnly.trans ?_ (giveUp _)
    split
    · exact (restoreLock p a.handle e s).trans (refuse p a .guard _)
    · exact refuse p a .guard s
  · exact (recordTrips p a.handle cs s).trans (beginStore p a _)

theorem guardStage (p : PortId) (a : Access) (s : State) : GrantOnly s (guardStage p a s) := by
  unfold Machine.guardStage
  dsimp only
  split
  · exact beginStore p a s
  · split
    · exact setPort p _ s
    · exact finishCheck p a _ 0 s

theorem beginRelease (p : PortId) (s : State) : GrantOnly s (beginRelease p s) := by
  unfold Machine.beginRelease
  split <;> rfl

theorem grantAccess (p : PortId) (a : Access) (s : State) : GrantOnly s (grantAccess p a s) := by
  unfold Machine.grantAccess
  split
  · exact (refuse p a _ s).trans (giveUp _)
  · split
    · exact beginStore p a s
    · exact beginStore p a s
    · exact GrantOnly.trans (t := takeLock p a.handle s) rfl (beginStore p a _)
    · exact guardStage p a s
    · exact (beginRelease p s).trans (guardStage p a _)

theorem grantLoop (n : Nat) (s : State) : GrantOnly s (grantLoop n s) := by
  induction n generalizing s with
  | zero => exact refl s
  | succ n ih =>
    unfold Machine.grantLoop
    split
    · exact refl s
    · rfl
    · rename_i p _
      split
      · exact refl s
      · rename_i a _
        have h : GrantOnly s (Machine.grantAccess p a { s with grant := some (.port p), pointer := p }) :=
          GrantOnly.trans (t := { s with grant := some (.port p), pointer := p }) rfl (grantAccess p a _)
        dsimp only
        split
        · exact h.trans (ih _)
        · exact h

theorem arbitrate (s : State) : GrantOnly s (arbitrate s) := by
  unfold Machine.arbitrate
  split
  · exact grantLoop 5 s
  · exact refl s

end GrantOnly

/-- No decision is made while the store port is held (R40). -/
theorem arbitrate_held {s : State} (h : s.grant ≠ none) : arbitrate s = s := by
  unfold arbitrate
  rw [if_neg h]

/-- With nothing waiting, a decision changes nothing (R41 rule 4). -/
theorem arbitrate_idle {s : State} (hp : ∀ p, s.waitingAccess p = none) (hu : s.unitWaiting = false) :
    arbitrate s = s := by
  have hn : nextPort s = none := by
    unfold nextPort
    rw [List.find?_eq_none]
    intro p _
    simp [hp p]
  have hk : pick s = none := by
    unfold pick
    simp [hu, hn]
  unfold arbitrate
  split
  · unfold grantLoop
    rw [hk]
  · rfl

end Sys2Proof.Machine
end

