-- ==== Sys2Proof/Laws/Commands.lean ====
section
/-! SUPPORT. What the shared operations of the commands answer, said once: taking a command word, answering an
access, breaking a lock, the choice at a window boundary, the start and the merge of a publish, and the
hand-over of a write. -/

namespace Sys2Proof.Machine

/-! ### Taking a command -/

theorem whenRunning_running {f : State → Result} {s : State} (h : s.inReset = none) : whenRunning f s = f s := by
  simp [whenRunning, h]

theorem whenRunning_held {f : State → Result} {s : State} (h : s.inReset ≠ none) :
    whenRunning f s = .next s := by
  simp [whenRunning, Option.isSome_iff_ne_none.2 h]

/-- An accepted command is carried out on the state with the command unit as acceptance leaves it. -/
theorem takeCommand_accepts {code cnt : BitVec 8} {f : State → State} {s : State} (h : s.accepts) :
    takeCommand code cnt f s = .next (f { s with cmd := s.cmd.accepted code cnt }) := by
  simp [takeCommand, whenRunning, h.1, h.2, acceptCommand, CommandUnit.accepted]

theorem takeCommand_busy {code cnt : BitVec 8} {f : State → State} {s : State} (hr : s.inReset = none)
    (hb : s.cmd.busy = true) :
    takeCommand code cnt f s = .next { s with cmd := { s.cmd with ignored := true } } := by
  simp [takeCommand, whenRunning, hr, hb, ignoreCommand]

theorem takeCommand_held {code cnt : BitVec 8} {f : State → State} {s : State} (h : s.inReset ≠ none) :
    takeCommand code cnt f s = .next s := whenRunning_held h

/-- A refused command leaves the state as it was but for the command unit. -/
theorem refuseCommand_accepted (code cnt : BitVec 8) (st : Status) (s : State) :
    refuseCommand st { s with cmd := s.cmd.accepted code cnt } = s.completed code cnt st [] := rfl

/-! ### Answers and locks -/

/-- A response with its fault, in the words of the statements. -/
theorem respond_accessFault (p : PortId) (c : AccessClass) (a : Word) (r : Resp) (i : Option SlotId)
    (b : List Byte) (s : State) :
    respond p r b (accessFault p c a r i s) = s.answeredAt p c a r (faultWindow r i) b := by
  unfold accessFault State.answeredAt EventUnit.afterResponse isFault
  by_cases h : c = .fetch ∨ r = .ok ∨ r = .locked ∨ r = .lockHeld
  · have hf : (c != .fetch && r != .ok && r != .locked && r != .lockHeld) = false := by
      rcases h with h | h | h | h <;> simp [h]
    rw [hf, if_pos h]; rfl
  · have hf : (c != .fetch && r != .ok && r != .locked && r != .lockHeld) = true := by
      simp only [not_or] at h; simp [h]
    rw [hf, if_neg h]
    cases hc : s.events.capture <;>
      simp [offerFault, EventUnit.faulted, respond, State.setPort, raise, Port.answered, State.port, hc]

theorem refuse_eq (p : PortId) (a : Access) (r : Resp) (s : State) :
    refuse p a r s =
      s.answeredAt p a.cls a.addr r (faultWindow r (some a.handle.index)) (zeroData a.cls a.size) :=
  respond_accessFault _ _ _ _ _ _ _

theorem unlockNotice_eq (h : Handle) (s : State) :
    unlockNotice h s =
      { s with continues := if s.engine.state = .held ∧ s.pausedOn h = true then s.continues + 1
                            else s.continues } := by
  unfold unlockNotice
  split <;> rfl

theorem breakLock_eq {p : PortId} {l : Lock} {s : State} (hl : s.lock p = some l) :
    breakLock p s =
      { s with
        locks := s.locks.set p none,
        events := s.events.raised .lockBroken,
        continues := if s.engine.state = .held ∧ s.pausedOn l.window = true then s.continues + 1
                     else s.continues } := by
  simp only [breakLock, hl, unlockNotice_eq]
  rfl

/-! ### The choice at a window boundary -/

theorem choiceLoop_again {n : Nat} {s : State} (h : (choiceStep s).2 = true) :
    choiceLoop (n + 1) s = choiceLoop n (choiceStep s).1 := by
  rw [choiceLoop]; split <;> simp_all

theorem choiceLoop_ends {n : Nat} {s : State} (h : (choiceStep s).2 = false) :
    choiceLoop (n + 1) s = (choiceStep s).1 := by
  rw [choiceLoop]; split <;> simp_all

/-- A choice that is not asked for again, made with the unit READY. -/
theorem boundaryChoice_ends {s : State} (hu : s.pubUnit = .ready) (h : (choiceStep s).2 = false) :
    boundaryChoice s = (choiceStep s).1 := by
  simp only [boundaryChoice, hu, if_true]
  exact choiceLoop_ends h

/-- A quiet engine stays as it is. -/
theorem boundaryChoice_quiet {s : State} (q : s.quiet) : boundaryChoice s = s := by
  have e : choiceStep s = (s, false) := by
    simp [choiceStep, q.urgentRun, q.urgentRequested, q.drainQueue, q.context, q.run, q.regularPending,
      settleIdle, q.state]
  unfold boundaryChoice
  split
  · rw [choiceLoop_ends (by rw [e]), e]
  · rfl

/-! ### A publish -/

theorem setCopyPosition_eq {s : State} {h : Handle} {w : Window} {p : Paired} {k : Working} (n : Nat)
    (hp : s.paired? h = some (w, p)) (hk : p.work = some k) :
    setCopyPosition h n s = s.setPaired h.index w { p with work := some { k with pos := n } } := by
  simp [setCopyPosition, hp, hk]

theorem mergeWork_eq {s : State} {h : Handle} {w : Window} {p : Paired} {k : Working}
    (hp : s.paired? h = some (w, p)) (hk : p.work = some k) :
    mergeWork h s =
      setFree (s.free + (p.dirty.marks + k.set.marks - (p.dirty.union k.set).marks))
        (s.setPaired h.index w { p with dirty := p.dirty.union k.set, work := none }) := by
  simp only [mergeWork, hp, hk, Paired.merge]

theorem mergeWork_merged {s : State} {h : Handle} {w : Window} {p : Paired} {k : Working}
    (hp : s.paired? h = some (w, p)) (hk : p.work = some k) : mergeWork h s = s.merged h w p k := by
  rw [mergeWork_eq hp hk]; rfl

theorem flip_flipped {s : State} {r : PublishRecord} {w : Window} {p : Paired} {k : Working}
    (hp : s.paired? r.handle = some (w, p)) (hk : p.work = some k) :
    flip r s = { s.flipped r.handle w p k r.idle with pubUnit := .ready } := by
  simp only [flip, hp, hk]; rfl

theorem abandonPublish_merged {s : State} {h : Handle} {w : Window} {p : Paired} {k : Working}
    (hp : s.paired? h = some (w, p)) (hk : p.work = some k) :
    abandonPublish h s = { s.merged h w p k with pubUnit := .ready } := by
  rw [abandonPublish, mergeWork_merged hp hk]; rfl

/-! ### A line boundary -/

/-- A boundary taken after the requests that come with it acts on all of them (R65, R66). -/
theorem boundary_after (r : PublishRecord) (s : State) : boundary false r s = boundaryAction r r s := by
  simp [boundary]

/-- A boundary taken before requests none of which has waited finds none of them. -/
theorem older_fresh {r : PublishRecord} (h : r.waited = 0) (hs : r.suspendWaited = false) :
    r.older = { r with abandons := [], suspend := false } := by
  simp [PublishRecord.older, h, hs]

/-- On an unlocked window with a line left, the requests wait for the boundary of that line's copy (R66). -/
theorem boundary_before_line {r : PublishRecord} {s : State} {w : Window} {p : Paired} {n : Nat}
    (h : r.waited = 0) (hs : r.suspendWaited = false) (hl : s.isLocked r.handle = false)
    (hp : s.paired? r.handle = some (w, p)) (hn : nextCopyLine w p = some n) :
    boundary true r s = ({ s with pubUnit := .reading r.wait n }, none) := by
  have hp' : s.paired? r.wait.handle = some (w, p) := hp
  have hl' : s.isLocked r.wait.handle = false := hl
  simp only [boundary, hl, and_self, if_true, older_fresh h hs, boundaryAction, advance, hp', hl', hn]
  simp [freeAfter]

/-- On an unlocked window with no line left it flips, before the requests, of which a freeing alone has an
effect (R66, R156). -/
theorem boundary_before_flip {r : PublishRecord} {s : State} {w : Window} {p : Paired} {k : Working}
    (h : r.waited = 0) (hs : r.suspendWaited = false) (hl : s.isLocked r.handle = false)
    (hp : s.paired? r.handle = some (w, p)) (hk : p.work = some k) (hn : nextCopyLine w p = none) :
    boundary true r s =
      if AbandonCause.retired ∈ r.abandons then
        (retireAtBoundary r.handle { s.flipped r.handle w p k r.idle with pubUnit := .ready }, some .flipped)
      else ({ s.flipped r.handle w p k r.idle with pubUnit := .ready }, some .flipped) := by
  have hp' : s.paired? r.wait.handle = some (w, p) := hp
  have hl' : s.isLocked r.wait.handle = false := hl
  have hf : flip r.wait s = { s.flipped r.handle w p k r.idle with pubUnit := .ready } := flip_flipped hp' hk
  simp only [boundary, hl, and_self, if_true, older_fresh h hs, boundaryAction, advance, hp', hl', hn, hf]
  simp [freeAfter, older_fresh h hs]

/-! ### The pass at a SEQ, and a start -/

/-- What a SEQ makes of the pass in progress, with the engine alone and PASS_DONE changed (R87). -/
theorem restartPass_eq {s : State} {v : WorkReport} (hv : s.engine.working = some v)
    (hc : s.engine.regularSeq ≠ [] ∨ s.engine.config.mode = .stepped ∨ s.engine.config.autoUrgent = false) :
    restartPass s =
      { s with engine := s.engine.passAgain v.aborted, events := s.events.raised .passDone } := by
  by_cases hm : s.engine.config.mode = .stepped
  · simp only [restartPass, writePass, hv, modEngine, raise, hm, if_pos, Engine.passAgain]
    rfl
  · by_cases hl : s.engine.regularSeq = []
    · have ha : s.engine.config.autoUrgent = false := by simpa [hl, hm] using hc
      cases hd : s.engine.config.mode
      case stepped => exact absurd hd hm
      all_goals
        simp [restartPass, writePass, hv, modEngine, raise, hd, hl, Engine.passAgain, beginPass,
          Engine.beginPass, finishPass, Engine.afterPass, runEnds, freshWork, WorkReport.ended,
          WorkReport.endStatus, EventUnit.raised, ha, bump, BitVec.or_assoc]
    · simp [restartPass, writePass, hv, modEngine, raise, hm, hl, Engine.passAgain, beginPass,
        Engine.beginPass, freshWork, WorkReport.ended, WorkReport.aborted, EventUnit.raised, bump]

/-- A start of a window without a W, with a line to copy: D moves into W and the read of the line is
requested. -/
theorem startPublish_reads {s : State} {h : Handle} {w : Window} {p : Paired} {n : Nat} (pu : Purpose)
    (st : EngineState) (hp : s.paired? h = some (w, p)) (hw : p.work = none)
    (hn : nextCopyLine w p.take = some n) :
    startPublish pu st h s =
      ({ s.publishing h w p n with
          engine := { s.engine with state := st, heldFrom := none, purpose := some pu } }, false) := by
  let u := modEngine (fun e => { e with state := st, heldFrom := none, purpose := some pu }) s
  have hu : u.paired? h = some (w, p) := hp
  have ht : (u.setPaired h.index w p.take).paired? (newRecord h p).handle =
      some ({ w with body := .paired p.take }, p.take) := paired?_setPaired hu
  have hl : nextCopyLine { w with body := .paired p.take } p.take = some n := hn
  have e : startUnit h u = ({ s.publishing h w p n with
      engine := { s.engine with state := st, heldFrom := none, purpose := some pu } }, false) := by
    simp only [startUnit, hu, advance, ht, hl]
    simp [u, State.publishing, State.setPaired, State.setWindow, State.setSlot, Paired.take, hw,
      Paired.startWork, modEngine, newRecord]
    rfl
  simp only [startPublish]
  show (match startUnit h u with | (t, false) => _ | (t, true) => _) = _
  rw [e]

/-- Putting back the PAIRED fields a window has changes nothing. -/
theorem setPaired_self {s : State} {h : Handle} {w : Window} {p : Paired} (hp : s.paired? h = some (w, p)) :
    s.setPaired h.index w p = s := by
  obtain ⟨hw, hb⟩ := paired?_eq_some.1 hp
  have hs := (window?_eq_some.1 hw).2
  have hv : ({ w with body := .paired p } : Window) = w := by rw [← hb]
  have hx : ({ s.slot h.index with win := some w } : Slot) = s.slot h.index := by rw [← hs]
  simp only [State.setPaired, State.setWindow, State.setSlot, hv, hx]
  simp [State.slot]

/-- A start of a window with a line to copy, from the beginning or from a kept W: the read of the line is
requested (R63). -/
theorem startPublish_goes_on {s : State} {h : Handle} {w : Window} {p : Paired} {n : Nat} (pu : Purpose)
    (st : EngineState) (hp : s.paired? h = some (w, p)) (hn : nextCopyLine w p.take = some n) :
    startPublish pu st h s =
      ({ s.setPaired h.index w p.take with
          pubUnit := .reading (newRecord h p) n,
          engine := { s.engine with state := st, heldFrom := none, purpose := some pu } }, false) := by
  let u := modEngine (fun e => { e with state := st, heldFrom := none, purpose := some pu }) s
  have hu : u.paired? h = some (w, p) := hp
  have ht : (u.setPaired h.index w p.take).paired? (newRecord h p).handle =
      some ({ w with body := .paired p.take }, p.take) := paired?_setPaired hu
  have hl : nextCopyLine { w with body := .paired p.take } p.take = some n := hn
  have e : startUnit h u = ({ s.setPaired h.index w p.take with
      pubUnit := .reading (newRecord h p) n,
      engine := { s.engine with state := st, heldFrom := none, purpose := some pu } }, false) := by
    simp only [startUnit, hu, advance, ht, hl]
    rfl
  simp only [startPublish]
  show (match startUnit h u with | (t, false) => _ | (t, true) => _) = _
  rw [e]

/-! ### The hand-over of a write -/

/-- A write's line is handed over if and only if its window was TRACKED or PAIRED at the lookup (R33, R46). -/
theorem markWrite_eq (a : Access) (s : State) :
    markWrite a s =
      if a.record.kind = .tracked ∨ a.record.kind = .paired then markLine a.handle a.line s else s := by
  unfold markWrite Window.dirty? Window.kind
  cases a.record.body <;> simp

end Sys2Proof.Machine
end

