-- ==== Sys2Proof/Laws/Engine.lean ====
section
/-! SUPPORT. What the engine's accounting can change: its own state, with the drain queue as it was, and
the pending events. -/

namespace Sys2Proof.Machine

/-- The state changed in the engine and the events alone, with the drain queue as it was. -/
structure EngineOnly (s t : State) : Prop where
  eq : t = { s with engine := t.engine, events := t.events }
  queue : t.engine.drainQueue = s.engine.drainQueue

namespace EngineOnly

theorem refl (s : State) : EngineOnly s s := ⟨rfl, rfl⟩

theorem trans {s t u : State} (h : EngineOnly s t) (k : EngineOnly t u) : EngineOnly s u := by
  refine ⟨?_, k.queue.trans h.queue⟩
  rw [k.eq, h.eq]

theorem slots {s t : State} (h : EngineOnly s t) : t.slots = s.slots := by rw [h.eq]
theorem groups {s t : State} (h : EngineOnly s t) : t.groups = s.groups := by rw [h.eq]
theorem storeStrap {s t : State} (h : EngineOnly s t) : t.storeStrap = s.storeStrap := by rw [h.eq]
theorem ports {s t : State} (h : EngineOnly s t) : t.ports = s.ports := by rw [h.eq]
theorem grant {s t : State} (h : EngineOnly s t) : t.grant = s.grant := by rw [h.eq]
theorem pointer {s t : State} (h : EngineOnly s t) : t.pointer = s.pointer := by rw [h.eq]
theorem free {s t : State} (h : EngineOnly s t) : t.free = s.free := by rw [h.eq]
theorem urgency {s t : State} (h : EngineOnly s t) : t.urgency = s.urgency := by rw [h.eq]
theorem pubUnit {s t : State} (h : EngineOnly s t) : t.pubUnit = s.pubUnit := by rw [h.eq]
theorem continues {s t : State} (h : EngineOnly s t) : t.continues = s.continues := by rw [h.eq]
theorem locks {s t : State} (h : EngineOnly s t) : t.locks = s.locks := by rw [h.eq]
theorem holdLimit {s t : State} (h : EngineOnly s t) : t.holdLimit = s.holdLimit := by rw [h.eq]
theorem guards {s t : State} (h : EngineOnly s t) : t.guards = s.guards := by rw [h.eq]
theorem cmd {s t : State} (h : EngineOnly s t) : t.cmd = s.cmd := by rw [h.eq]
theorem inReset {s t : State} (h : EngineOnly s t) : t.inReset = s.inReset := by rw [h.eq]
theorem store {s t : State} (h : EngineOnly s t) : t.store = s.store := by rw [h.eq]
theorem fresh {s t : State} (h : EngineOnly s t) : t.fresh = s.fresh := by rw [h.eq]
theorem pending {s t : State} (h : EngineOnly s t) : t.pending = s.pending := by rw [h.eq]

theorem window? {s t : State} (h : EngineOnly s t) (x : Handle) : t.window? x = s.window? x :=
  window?_congr h.slots x
theorem paired? {s t : State} (h : EngineOnly s t) (x : Handle) : t.paired? x = s.paired? x :=
  paired?_congr h.slots x
theorem isLocked {s t : State} (h : EngineOnly s t) (x : Handle) : t.isLocked x = s.isLocked x :=
  isLocked_congr h.locks x

/-- A change of the engine that leaves the drain queue. -/
theorem modEngine {f : Engine → Engine} {s : State}
    (h : (f s.engine).drainQueue = s.engine.drainQueue) : EngineOnly s (modEngine f s) := ⟨rfl, h⟩

theorem raise (e : Event) (s : State) : EngineOnly s (raise e s) := ⟨rfl, rfl⟩

theorem modWork (f : WorkReport → WorkReport) (s : State) : EngineOnly s (modWork f s) := modEngine rfl

theorem modUrgent (f : WorkReport → WorkReport) (s : State) : EngineOnly s (modUrgent f s) := modEngine rfl

theorem writePass (st : RunStatus) (s : State) : EngineOnly s (writePass st s) := by
  unfold Machine.writePass
  split
  · exact refl s
  · exact (modEngine rfl).trans (raise _ _)

theorem writeUrgent (st : RunStatus) (s : State) : EngineOnly s (writeUrgent st s) := by
  unfold Machine.writeUrgent
  split
  · exact refl s
  · exact (modEngine rfl).trans (raise _ _)

theorem autoUrgentTrigger (s : State) : EngineOnly s (autoUrgentTrigger s) := by
  unfold Machine.autoUrgentTrigger
  split
  · exact raise _ s
  · exact modEngine rfl

theorem finishPass (s : State) : EngineOnly s (finishPass s) := by
  unfold Machine.finishPass
  split
  · exact refl s
  · have h := (writePass (WorkReport.endStatus ‹_›) s).trans
      (modEngine (f := fun e => e.afterPass ‹WorkReport›) rfl)
    dsimp only
    split
    · exact h.trans (autoUrgentTrigger _)
    · exact h

theorem beginPass (s : State) : EngineOnly s (beginPass s) := by
  have h : EngineOnly s (Machine.modEngine Engine.beginPass s) := modEngine rfl
  unfold Machine.beginPass
  dsimp only
  split
  · exact h.trans (finishPass _)
  · exact h

theorem endSubRun (s : State) : EngineOnly s (endSubRun s) := by
  have h : EngineOnly s (Machine.raise .stepDone (Machine.modEngine (fun e => { e with run := none }) s)) :=
    (modEngine rfl).trans (raise _ _)
  unfold Machine.endSubRun
  dsimp only
  split
  · exact h.trans (finishPass _)
  · exact h

theorem beginSubRun (s : State) : EngineOnly s (beginSubRun s) := by
  unfold Machine.beginSubRun
  have h1 : EngineOnly s (if s.engine.cursor = 0 then Machine.modEngine Engine.beginPass s else s) := by
    split
    · exact modEngine rfl
    · exact refl s
  generalize (if s.engine.cursor = 0 then Machine.modEngine Engine.beginPass s else s) = t at h1
  dsimp only
  split
  · exact h1.trans ((modEngine rfl).trans (endSubRun _))
  · exact h1.trans (modEngine rfl)

theorem beginRun (s : State) : EngineOnly s (beginRun s) := by
  unfold Machine.beginRun
  split
  · exact beginPass s
  · exact beginPass s
  · exact beginSubRun s

theorem entryEnds (s : State) : EngineOnly s (entryEnds s) := by
  unfold Machine.entryEnds
  split
  · exact refl s
  · dsimp only
    split
    · split
      · exact (modEngine rfl).trans (endSubRun _)
      · exact modEngine rfl
    · split
      · exact (modEngine rfl).trans (finishPass _)
      · exact modEngine rfl

theorem restartPass (s : State) : EngineOnly s (restartPass s) := by
  have h : EngineOnly s (Machine.modEngine (fun e => { e with restartPass := false })
      (Machine.writePass .aborted s)) := (writePass _ s).trans (modEngine rfl)
  unfold Machine.restartPass
  dsimp only
  split
  · exact h.trans (modEngine rfl)
  · exact h.trans (beginPass _)

theorem beginUrgent (s : State) : EngineOnly s (beginUrgent s) := by
  unfold Machine.beginUrgent
  dsimp only
  split
  · exact (modEngine rfl).trans (writeUrgent _ _)
  · exact modEngine rfl

theorem urgentEntryEnds (s : State) : EngineOnly s (urgentEntryEnds s) := by
  unfold Machine.urgentEntryEnds
  split
  · exact refl s
  · dsimp only
    split
    · exact (modEngine rfl).trans (writeUrgent _ _)
    · exact modEngine rfl

theorem dropContext (s : State) : EngineOnly s (dropContext s) := modEngine rfl

theorem countContext (c : SuspendedCtx) (b : Bool) (s : State) : EngineOnly s (countContext c b s) :=
  ((modWork _ s).trans (dropContext _)).trans (entryEnds _)

theorem restartUrgent (b : Bool) (s : State) : EngineOnly s (restartUrgent b s) := by
  have h : EngineOnly s (Machine.modEngine (fun e => { e with restartUrgent := false })
      (Machine.writeUrgent .aborted s)) := (writeUrgent _ s).trans (modEngine rfl)
  unfold Machine.restartUrgent
  dsimp only
  split
  · exact h.trans (beginUrgent _)
  · split
    · exact (h.trans (countContext _ _ _)).trans (beginUrgent _)
    · exact h.trans (beginUrgent _)

theorem suspendContext (x : Handle) (s : State) : EngineOnly s (suspendContext x s) := modEngine rfl

theorem adopt (x : Handle) (s : State) : EngineOnly s (Machine.modEngine (fun e => e.adopt x) s) := by
  refine modEngine ?_
  unfold Engine.adopt
  split
  · rfl
  · split <;> rfl

theorem resolve (rep : UnitReport) (s : State) :
    EngineOnly s (Machine.modEngine (fun e => e.resolve rep) s) := by
  refine modEngine ?_
  unfold Engine.resolve
  split
  · rfl
  · split <;> rfl

theorem conclude (pu : Purpose) (x : Handle) (rep : UnitReport) (s : State) :
    EngineOnly s (conclude pu x rep s) := by
  unfold Machine.conclude
  split
  · split
    · exact suspendContext x s
    · split
      · exact restartPass s
      · exact entryEnds s
  · dsimp only
    split
    · exact (resolve rep s).trans (restartUrgent _ _)
    · exact (resolve rep s).trans (urgentEntryEnds _)
  · exact resolve rep s

theorem settleIdle (s : State) : EngineOnly s (settleIdle s) := by
  unfold Machine.settleIdle
  split
  · exact refl s
  · exact (modEngine rfl).trans (raise _ _)

theorem enterHeld (s : State) : EngineOnly s (enterHeld s) := modEngine rfl

theorem stopPass (s : State) : EngineOnly s (stopPass s) := by
  unfold Machine.stopPass
  split
  · exact (writePass _ s).trans (modEngine rfl)
  · exact modEngine rfl

theorem leaveHeld (s : State) : EngineOnly s (leaveHeld s) := modEngine rfl

theorem noteCopied (s : State) : EngineOnly s (noteCopied s) := by
  unfold Machine.noteCopied
  split
  · exact modWork _ s
  · exact refl s

end EngineOnly

end Sys2Proof.Machine
end

