-- ==== Sys2Proof/Laws/Grant.lean ====
section
/-! SUPPORT. What a grant decision leaves: the store port held by the one access or copy that is at the store,
or by none with nothing waiting (R40, R41). -/

namespace Sys2Proof.Machine

/-! ### What the checks at a grant do to the ports and the grant -/

/-- Two states with the same ports and the same grant. -/
def SamePorts (s t : State) : Prop := t.ports = s.ports ∧ t.grant = s.grant

namespace SamePorts

theorem trans {s t u : State} (h : SamePorts s t) (k : SamePorts t u) : SamePorts s u :=
  ⟨k.1.trans h.1, k.2.trans h.2⟩

theorem unlockNotice (h : Handle) (s : State) : SamePorts s (unlockNotice h s) := by
  unfold Machine.unlockNotice; split <;> exact ⟨rfl, rfl⟩

theorem breakLock (p : PortId) (s : State) : SamePorts s (breakLock p s) := by
  unfold Machine.breakLock
  split
  · exact ⟨rfl, rfl⟩
  · exact trans (t := raise .lockBroken (s.setLock p none)) ⟨rfl, rfl⟩ (unlockNotice _ _)

theorem restoreLock (p : PortId) (h : Handle) (e : Nat) (s : State) : SamePorts s (restoreLock p h e s) := by
  unfold Machine.restoreLock
  repeat' split
  all_goals first | exact ⟨rfl, rfl⟩ | exact breakLock _ _

theorem beginRelease (p : PortId) (s : State) : SamePorts s (beginRelease p s) := by
  unfold Machine.beginRelease; split <;> exact ⟨rfl, rfl⟩

theorem recordTrip (p : PortId) (h : Handle) (s : State) (c : HeldGuard × Word) :
    SamePorts s (recordTrip p h s c) := by
  unfold Machine.recordTrip
  repeat' split
  all_goals exact ⟨rfl, rfl⟩

theorem recordTrips (p : PortId) (h : Handle) (cs : List (HeldGuard × Word)) (s : State) :
    SamePorts s (recordTrips p h cs s) := by
  have fold : ∀ (l : List (HeldGuard × Word)) (s : State),
      SamePorts s (l.foldl (Machine.recordTrip p h) s) := by
    intro l
    induction l with
    | nil => intro s; exact ⟨rfl, rfl⟩
    | cons c t ih => intro s; exact trans (recordTrip p h s c) (ih _)
  unfold Machine.recordTrips
  dsimp only
  split
  · exact ⟨rfl, rfl⟩
  · exact trans (fold _ s) ⟨rfl, rfl⟩

theorem accessFault (p : PortId) (c : AccessClass) (a : Word) (r : Resp) (i : Option SlotId) (s : State) :
    SamePorts s (accessFault p c a r i s) := by
  unfold Machine.accessFault offerFault
  repeat' split
  all_goals exact ⟨rfl, rfl⟩

end SamePorts

/-- What a grant's checks leave at the ports and the grant: the refused access is no longer in progress and
the store port is given back, or the access is at the store and the store port is kept. -/
def Granted (p : PortId) (s t : State) : Prop :=
  (∀ q, q ≠ p → t.port q = s.port q) ∧
    (t.grant = none ∧ (t.port p).access = none ∨ t.grant = s.grant ∧ t.atStore p = true)

theorem Granted.of_same {p : PortId} {s t u : State} (h : SamePorts s t) (k : Granted p t u) :
    Granted p s u := by
  refine ⟨fun q hq => (k.1 q hq).trans (port_congr h.1 q), ?_⟩
  rcases k.2 with k | k
  · exact .inl k
  · exact .inr ⟨k.1.trans h.2, k.2⟩

theorem granted_stage (p : PortId) (a : Access) (st : Stage) (s : State) (h : st ≠ .waiting) :
    Granted p s (setStage p a st s) := by
  refine ⟨fun q hq => ?_, .inr ⟨rfl, ?_⟩⟩
  · simp [setStage, port_setPort, Ne.symm hq]
  · cases st <;> simp_all [setStage, State.atStore]

theorem granted_refuse (p : PortId) (a : Access) (r : Resp) (s : State) :
    Granted p s (giveUp (refuse p a r s)) := by
  have f := SamePorts.accessFault p a.cls a.addr r (some a.handle.index) s
  refine Granted.of_same f ⟨fun q hq => ?_, .inl ⟨rfl, ?_⟩⟩
  · show (respond p r _ _).port q = _
    simp [respond, port_setPort, Ne.symm hq]
  · show ((respond p r _ _).port p).access = none
    simp [respond]

theorem granted_finishCheck (p : PortId) (a : Access) (cs : List (HeldGuard × Word)) (e : Nat) (s : State) :
    Granted p s (finishCheck p a cs e s) := by
  unfold finishCheck
  split
  · split
    · exact (granted_refuse p a .guard _).of_same (SamePorts.restoreLock p a.handle e s)
    · exact granted_refuse p a .guard s
  · exact (granted_stage p a _ _ (by simp)).of_same (SamePorts.recordTrips p a.handle cs s)

theorem granted_guardStage (p : PortId) (a : Access) (s : State) : Granted p s (guardStage p a s) := by
  unfold guardStage
  dsimp only
  repeat' split
  · exact granted_stage p a _ s (by simp)
  · exact granted_stage p a _ s (by simp)
  · exact granted_finishCheck p a _ 0 s

/-- The checks at a grant refuse the access and give the store port back, or send it to the store. -/
theorem granted_grantAccess (p : PortId) (a : Access) (s : State) : Granted p s (grantAccess p a s) := by
  unfold grantAccess
  split
  · exact granted_refuse p a _ s
  · split
    · exact granted_stage p a _ s (by simp)
    · exact granted_stage p a _ s (by simp)
    · exact (granted_stage p a _ _ (by simp)).of_same ⟨rfl, rfl⟩
    · exact granted_guardStage p a s
    · exact (granted_guardStage p a _).of_same (SamePorts.beginRelease p s)

/-! ### The decision -/

/-- The grant names what is at the store; unlike GrantSound, requests may wait while it is FREE. -/
def GrantNamed (s : State) : Prop :=
  (s.grant = some .engine → s.pubUnit.wantsStore = true) ∧ ∀ p, s.atStore p = true ↔ s.grant = some (.port p)

/-- How many ports have an access waiting. -/
def State.waitingPorts (s : State) : Nat :=
  (if (s.waitingAccess 0).isSome then 1 else 0) + (if (s.waitingAccess 1).isSome then 1 else 0) +
    (if (s.waitingAccess 2).isSome then 1 else 0) + (if (s.waitingAccess 3).isSome then 1 else 0)

theorem waitingAccess_congr {s t : State} {p : PortId} (h : t.port p = s.port p) :
    t.waitingAccess p = s.waitingAccess p := by
  unfold State.waitingAccess; rw [h]

theorem atStore_congr {s t : State} {p : PortId} (h : t.port p = s.port p) : t.atStore p = s.atStore p := by
  unfold State.atStore; rw [h]

theorem waiting_not_atStore {s : State} {p : PortId} {a : Access} (h : s.waitingAccess p = some a) :
    s.atStore p = false := by
  unfold State.waitingAccess at h
  unfold State.atStore
  repeat' split at h
  all_goals first | (cases h; done) | skip
  rename_i i hi _ hs
  simp [hi, hs]

/-- A refusal takes one waiting access away. -/
theorem waitingPorts_lt {s t : State} {p : PortId} {a : Access} (hw : s.waitingAccess p = some a)
    (hq : ∀ q, q ≠ p → t.waitingAccess q = s.waitingAccess q) (hp : t.waitingAccess p = none) :
    t.waitingPorts < s.waitingPorts := by
  unfold State.waitingPorts
  fin_cases p
  · have h1 := hq 1 (by decide); have h2 := hq 2 (by decide); have h3 := hq 3 (by decide)
    simp_all
  · have h1 := hq 0 (by decide); have h2 := hq 2 (by decide); have h3 := hq 3 (by decide)
    simp_all
  · have h1 := hq 0 (by decide); have h2 := hq 1 (by decide); have h3 := hq 3 (by decide)
    simp_all
  · have h1 := hq 0 (by decide); have h2 := hq 1 (by decide); have h3 := hq 2 (by decide)
    simp_all

theorem nextPort_none {s : State} (h : nextPort s = none) : ∀ p, s.waitingAccess p = none := by
  unfold nextPort at h
  simp at h
  have all : ∀ x p : PortId, p = x + 1 ∨ p = x + 2 ∨ p = x + 3 ∨ p = x := by decide
  intro p
  rcases all s.pointer p with e | e | e | e <;> rw [e] <;> simp [h]

theorem nextPort_some {s : State} {p : PortId} (h : nextPort s = some p) : (s.waitingAccess p).isSome = true := by
  unfold nextPort at h
  exact List.find?_some (p := fun p => (s.waitingAccess p).isSome) h

/-- The decisions of one event, with fuel for every waiting port. -/
theorem grantLoop_sound (n : Nat) (s : State) (hg : s.grant = none) (hs : GrantNamed s)
    (hn : s.waitingPorts < n) : GrantSound (grantLoop n s) := by
  induction n generalizing s with
  | zero => omega
  | succ n ih =>
    have stays : (∀ p, s.waitingAccess p = none) → s.unitWaiting = false → GrantSound s := by
      intro h1 h2
      exact ⟨fun _ => ⟨h1, h2⟩, hs.1, hs.2⟩
    have unit : s.unitWaiting = true → GrantSound { s with grant := some .engine } := by
      intro hu
      refine ⟨(fun h => nomatch h), fun _ => ?_, fun p => ?_⟩
      · have : (s.pubUnit.wantsStore && s.grant != some .engine) = true := hu
        rw [hg] at this; simpa using this
      · have := hs.2 p
        rw [hg] at this
        simp at this
        show s.atStore p = true ↔ _
        simp [this]
    unfold grantLoop
    split
    · rename_i hp
      unfold pick at hp
      split at hp
      · cases hp
      · split at hp
        · cases hp
        · rename_i hnp
          split at hp
          · cases hp
          · rename_i hu
            exact stays (nextPort_none hnp) (by simpa using hu)
    · rename_i hp
      apply unit
      unfold pick at hp
      split at hp
      · rename_i h; simp at h; exact h.2
      · split at hp
        · cases hp
        · split at hp
          · assumption
          · cases hp
    · rename_i p hp
      split
      · rename_i hw
        have : (s.waitingAccess p).isSome = true := by
          unfold pick at hp
          split at hp
          · cases hp
          · split at hp
            · rename_i q hq
              cases hp
              exact nextPort_some hq
            · split at hp <;> cases hp
        rw [hw] at this; cases this
      · rename_i a hw
        dsimp only
        let s1 : State := { s with grant := some (.port p), pointer := p }
        let t := grantAccess p a s1
        have g : Granted p s1 t := granted_grantAccess p a s1
        have only : GrantOnly s1 t := GrantOnly.grantAccess p a s1
        have others : ∀ q, q ≠ p → t.port q = s.port q := g.1
        have away : ∀ q, s.atStore q = false := by
          intro q
          have := hs.2 q
          rw [hg] at this
          simpa using this
        show GrantSound (if t.grant = none then grantLoop n t else t)
        split
        · rename_i ht
          have hp0 : (t.port p).access = none := by
            rcases g.2 with k | k
            · exact k.2
            · rw [k.1] at ht; cases ht
          have tp : t.waitingAccess p = none := by unfold State.waitingAccess; rw [hp0]
          refine ih t ht ⟨fun h => (by rw [ht] at h; cases h), fun q => ?_⟩ ?_
          · rw [ht]
            simp
            by_cases hq : q = p
            · rw [hq]; unfold State.atStore; rw [hp0]
            · rw [atStore_congr (others q hq)]; exact away q
          · have := waitingPorts_lt hw (fun q hq => waitingAccess_congr (others q hq)) tp
            omega
        · rename_i ht
          rcases g.2 with k | k
          · exact absurd k.1 ht
          · refine ⟨fun h => absurd h ht, fun h => ?_, fun q => ?_⟩
            · rw [k.1] at h; cases h
            · rw [k.1]
              by_cases hq : q = p
              · rw [hq]; exact ⟨fun _ => rfl, fun _ => k.2⟩
              · rw [atStore_congr (others q hq), away q]
                simp [s1, Ne.symm hq]

/-- A decision leaves the store port held by what is at the store, or by none with nothing waiting. -/
theorem arbitrate_grantSound {s : State} (hs : GrantNamed s) : GrantSound (arbitrate s) := by
  unfold arbitrate
  split
  · rename_i hg
    apply grantLoop_sound 5 s hg hs
    unfold State.waitingPorts
    repeat' split
    all_goals omega
  · rename_i hg
    exact ⟨fun h => absurd h hg, hs.1, hs.2⟩

/-- A refused access waits no more. -/
theorem waitingPorts_granted {p : PortId} {a : Access} {s : State} (hw : s.waitingAccess p = some a)
    (hg : (grantAccess p a { s with grant := some (.port p), pointer := p }).grant = none) :
    (grantAccess p a { s with grant := some (.port p), pointer := p }).waitingPorts < s.waitingPorts := by
  have g : Granted p { s with grant := some (.port p), pointer := p } _ := granted_grantAccess p a _
  refine waitingPorts_lt hw (fun q hq => waitingAccess_congr (g.1 q hq)) ?_
  rcases g.2 with k | k
  · unfold State.waitingAccess; rw [k.2]
  · rw [k.1] at hg; cases hg

/-- More decisions than waiting ports can ask for change nothing. -/
theorem grantLoop_more (n : Nat) (s : State) (hn : s.waitingPorts < n) : grantLoop (n + 1) s = grantLoop n s := by
  induction n generalizing s with
  | zero => omega
  | succ n ih =>
    rw [grantLoop, grantLoop]
    split
    · rfl
    · rfl
    · split
      · rfl
      · rename_i p _ a hw
        dsimp only
        split
        · rename_i hg
          exact ih _ (by have := waitingPorts_granted hw hg; omega)
        · rfl

theorem waitingPorts_le (s : State) : s.waitingPorts ≤ 4 := by
  unfold State.waitingPorts; repeat' split
  all_goals omega

/-- The decision that picks a port's access: with the access granted it stands, and with the access refused the
decision is made again (R40). -/
theorem arbitrate_picks {s : State} {p : PortId} {a : Access} (h : s.grant = none) (hk : pick s = some (.port p))
    (hw : s.waitingAccess p = some a) :
    let g := grantAccess p a { s with grant := some (.port p), pointer := p }
    g.grant = some (.port p) ∧ arbitrate s = g ∨ g.grant = none ∧ arbitrate s = arbitrate g := by
  intro g
  have e : arbitrate s = if g.grant = none then grantLoop 4 g else g := by
    simp only [arbitrate, h, if_true, grantLoop, hk, hw, g]
  have gd : Granted p { s with grant := some (.port p), pointer := p } g := granted_grantAccess p a _
  rcases gd.2 with k | k
  · refine .inr ⟨k.1, ?_⟩
    rw [e, if_pos k.1, arbitrate, if_pos k.1]
    have hlt : g.waitingPorts < s.waitingPorts := waitingPorts_granted hw k.1
    have := waitingPorts_le s
    exact (grantLoop_more 4 g (by omega)).symm
  · refine .inl ⟨k.1, ?_⟩
    rw [e, if_neg]
    rw [k.1]; simp

theorem GrantSound.named {s : State} (h : GrantSound s) : GrantNamed s := h.2

end Sys2Proof.Machine
end

