-- ==== Sys2Proof/Laws/Keeps.lean ====
section
/-! SUPPORT. One walk through the whole machine: a predicate of the tables, the pool, the store and the
publish unit that every elementary change keeps is kept by every step.  An invariant is proved by giving
its `Kept`. -/

namespace Sys2Proof.Machine

/-- The two states agree in everything that a kept predicate may speak of. -/
structure Same (s t : State) : Prop where
  slots : t.slots = s.slots
  free : t.free = s.free
  guards : t.guards = s.guards
  locks : t.locks = s.locks
  queue : t.engine.drainQueue = s.engine.drainQueue
  pubUnit : t.pubUnit = s.pubUnit
  store : t.store = s.store
  storeStrap : t.storeStrap = s.storeStrap

theorem Same.refl (s : State) : Same s s := ⟨rfl, rfl, rfl, rfl, rfl, rfl, rfl, rfl⟩

theorem Same.trans {s t u : State} (h : Same s t) (k : Same t u) : Same s u :=
  ⟨k.slots.trans h.slots, k.free.trans h.free, k.guards.trans h.guards, k.locks.trans h.locks,
    k.queue.trans h.queue, k.pubUnit.trans h.pubUnit, k.store.trans h.store,
    k.storeStrap.trans h.storeStrap⟩

theorem EngineOnly.same {s t : State} (h : EngineOnly s t) : Same s t :=
  ⟨h.slots, h.free, h.guards, h.locks, h.queue, h.pubUnit, h.store, h.storeStrap⟩

/-- What OPEN and VIEW have checked of the window that fills a slot (R15, R16, R149, R151). -/
structure Fillable (s : State) (w : Window) : Prop where
  range : rangeAllowed w.base w.pages = true
  disjoint : rangeOverlaps w s = false
  regions : storeConflict w s = false
  marks : w.marks = 0
  active : w.draining = false

/-- A publish record that may stand at the unit: that of the publish at the unit, or one fixed afresh for a
PAIRED window with the bank that is not current (R63). -/
def OkRecord (s : State) (r : PublishRecord) : Prop :=
  (∃ r0, s.pubUnit.record? = some r0 ∧ r0.handle = r.handle ∧ r0.idle = r.idle) ∨
    ∃ w p, s.paired? r.handle = some (w, p) ∧ r.idle = p.current.other

/-- The predicate is kept by every elementary change that the machine makes, under what the machine has
checked when it makes it. -/
structure Kept (P : State → Prop) : Prop where
  same : ∀ {s t}, Same s t → P s → P t
  store : ∀ {s} a bs, P s → P (storeWrite a bs s)
  mark : ∀ {s} h n, P s → P (markLine h n s)
  fill : ∀ {s} i w, P s → (s.slot i).win = none → Fillable s w → P (fillSlot i w s)
  views : ∀ {s h w p} n, P s → s.paired? h = some (w, p) →
    P (s.setPaired h.index w { p with views := n })
  rights : ∀ {s h w} rm wm g, P s → s.window? h = some w →
    P (s.setWindow h.index { w with readMask := rm, writeMask := wm, group := g })
  take : ∀ {s h w p}, P s → s.pubUnit = .ready → s.paired? h = some (w, p) →
    P (s.setPaired h.index w p.take)
  unit : ∀ {s} u, P s → (∀ r, u.record? = some r → OkRecord s r) → P { s with pubUnit := u }
  flip : ∀ {s} r, P s → P (flip r s)
  merge : ∀ {s} h, P s → P (mergeWork h s)
  position : ∀ {s} h n, P s → P (setCopyPosition h n s)
  enter : ∀ {s h w p}, P s → s.paired? h = some (w, p) → w.draining = false → s.isLocked h = false →
    P (modEngine (fun e => { e with drainQueue := e.drainQueue ++ [h] })
      (s.setPaired h.index w { p with drain := some 0 }))
  requeue : ∀ {s h q w p}, P s → s.engine.drainQueue = h :: q → s.paired? h = some (w, p) →
    p.drain.getD 0 = 0 →
    P (modEngine (fun e => { e with drainQueue := q ++ [h] })
      (s.setPaired h.index w { p with drain := some (p.drain.getD 0 + 1) }))
  pop : ∀ {s h q}, P s → s.engine.drainQueue = h :: q → s.paired? h = none →
    P (modEngine (fun e => { e with drainQueue := e.drainQueue.tail }) s)
  free : ∀ {s} h, P s → (s.isLocked h = false ∨ h ∈ s.engine.drainQueue) →
    ((∀ r, s.pubUnit.record? = some r → r.handle ≠ h) ∨ s.paired? h = none) → P (freeWindow h s)
  freeBroken : ∀ {s} h, P s → s.pubUnit = .ready → P (freeWindow h (breakWindowLock h s))
  unlock : ∀ {s} p, P s → P (s.setLock p none)
  relock : ∀ {s p l} ph t, P s → s.lock p = some l →
    P (s.setLock p (some { l with phase := ph, timer := t }))
  lock : ∀ {s h w} p, P s → s.window? h = some w → w.kind ≠ .view → w.draining = false →
    otherHolds p h s = false → s.lock p = none → P (takeLock p h s)
  guardFill : ∀ {s w} i g, P s → s.guard i = none → s.window? g.window = some w → w.kind ≠ .view →
    guardOperands s g.window w = some g → s.guards.toList.any (guardNames g.window g.offset) = false →
    P (s.setGuard i (some g))
  guardDrop : ∀ {s} i, P s → P (s.setGuard i none)
  guardTrip : ∀ {s i g} t, P s → s.guard i = some g → P (s.setGuard i (some { g with trip := t }))
  collect : ∀ {s}, P s → P (collectCommand s)
  restart : ∀ {s}, P s → P (restartEvent s)
  cold : ∀ {s} c z p f q, P s → P (State.cold c z p s.store f q)

namespace Kept

variable {P : State → Prop} (K : Kept P)
include K

/-! ### Changes that a kept predicate does not see -/

theorem outer {s t : State} (hs : P s) (h : Same s t) : P t := K.same h hs

theorem engineOnly {s t : State} (h : EngineOnly s t) (hs : P s) : P t := K.same h.same hs

theorem raise {s : State} (e : Event) (hs : P s) : P (raise e s) :=
  K.outer hs ⟨rfl, rfl, rfl, rfl, rfl, rfl, rfl, rfl⟩

theorem complete {s : State} (st : Status) (r : List Word) (hs : P s) : P (complete st r s) :=
  K.outer hs ⟨rfl, rfl, rfl, rfl, rfl, rfl, rfl, rfl⟩

theorem accept {s : State} (c n : BitVec 8) (hs : P s) : P (acceptCommand c n s) :=
  K.outer hs ⟨rfl, rfl, rfl, rfl, rfl, rfl, rfl, rfl⟩

theorem refuseCommand {s : State} (st : Status) (hs : P s) : P (refuseCommand st s) := K.complete st [] hs

theorem modEngine {s : State} {f : Engine → Engine} (h : (f s.engine).drainQueue = s.engine.drainQueue)
    (hs : P s) : P (modEngine f s) := K.engineOnly (EngineOnly.modEngine h) hs

theorem offerFault {s : State} (f : FaultRecord) (hs : P s) : P (offerFault f s) := by
  unfold Machine.offerFault
  split <;> exact K.outer hs ⟨rfl, rfl, rfl, rfl, rfl, rfl, rfl, rfl⟩

theorem unlockNotice {s : State} (h : Handle) (hs : P s) : P (unlockNotice h s) := by
  unfold Machine.unlockNotice
  split
  · exact K.outer hs ⟨rfl, rfl, rfl, rfl, rfl, rfl, rfl, rfl⟩
  · exact hs

theorem setPort {s : State} (p : PortId) (x : Port) (hs : P s) : P (s.setPort p x) :=
  K.outer hs ⟨rfl, rfl, rfl, rfl, rfl, rfl, rfl, rfl⟩

theorem respond {s : State} (p : PortId) (r : Resp) (b : List Byte) (hs : P s) : P (respond p r b s) :=
  K.setPort _ _ hs

theorem setStage {s : State} (p : PortId) (a : Access) (st : Stage) (hs : P s) : P (setStage p a st s) :=
  K.setPort _ _ hs

theorem beginStore {s : State} (p : PortId) (a : Access) (hs : P s) : P (beginStore p a s) :=
  K.setStage _ _ _ hs

theorem giveUp {s : State} (hs : P s) : P (giveUp s) :=
  K.outer hs ⟨rfl, rfl, rfl, rfl, rfl, rfl, rfl, rfl⟩

theorem accessFault {s : State} (p : PortId) (c : AccessClass) (a : Word) (r : Resp) (i : Option SlotId)
    (hs : P s) : P (accessFault p c a r i s) := by
  unfold Machine.accessFault
  split
  · exact K.raise _ (K.offerFault _ hs)
  · exact hs

theorem answer {s : State} (p : PortId) (a : Access) (r : Resp) (b : List Byte) (hs : P s) :
    P (answer p a r b s) := K.respond _ _ _ (K.accessFault _ _ _ _ _ hs)

theorem refuse {s : State} (p : PortId) (a : Access) (r : Resp) (hs : P s) : P (refuse p a r s) :=
  K.answer _ _ _ _ hs

theorem unitReady {s : State} (hs : P s) : P (unitReady s) := K.unit .ready hs (by simp [PubUnit.record?])

/-! ### Locks and guards -/

theorem breakLock {s : State} (p : PortId) (hs : P s) : P (breakLock p s) := by
  unfold Machine.breakLock
  split
  · exact hs
  · exact K.unlockNotice _ (K.raise _ (K.unlock p hs))

theorem beginRelease {s : State} (p : PortId) (hs : P s) : P (beginRelease p s) := by
  unfold Machine.beginRelease
  split
  · exact hs
  · exact K.relock _ _ hs ‹_›

theorem finishRelease {s : State} (p : PortId) (h : Handle) (hs : P s) : P (finishRelease p h s) := by
  unfold Machine.finishRelease
  split
  · exact hs
  · split
    · exact K.unlockNotice _ (K.unlock p hs)
    · exact hs

theorem restoreLock {s : State} (p : PortId) (h : Handle) (e : Nat) (hs : P s) :
    P (restoreLock p h e s) := by
  unfold Machine.restoreLock
  split
  · exact hs
  · split
    · split
      · exact K.relock _ _ hs ‹_›
      · exact K.relock _ _ hs ‹_›
      · split
        · exact K.breakLock p hs
        · exact K.relock _ _ hs ‹_›
    · exact hs

theorem recordTrip {s : State} (p : PortId) (h : Handle) (c : HeldGuard × Word) (hs : P s) :
    P (recordTrip p h s c) := by
  unfold Machine.recordTrip
  split
  · exact hs
  · split
    · exact K.guardTrip _ hs ‹_›
    · exact hs

theorem recordTrips {s : State} (p : PortId) (h : Handle) (cs : List (HeldGuard × Word)) (hs : P s) :
    P (recordTrips p h cs s) := by
  have fold : ∀ (l : List (HeldGuard × Word)) (t : State), P t → P (l.foldl (Machine.recordTrip p h) t) := by
    intro l
    induction l with
    | nil => exact fun _ ht => ht
    | cons c l ih => exact fun t ht => ih _ (K.recordTrip p h c ht)
  unfold Machine.recordTrips
  dsimp only
  split
  · exact hs
  · exact K.raise _ (fold _ _ hs)

/-! ### The arbiter -/

theorem finishCheck {s : State} (p : PortId) (a : Access) (cs : List (HeldGuard × Word)) (e : Nat)
    (hs : P s) : P (finishCheck p a cs e s) := by
  unfold Machine.finishCheck
  split
  · refine K.giveUp (K.refuse _ _ _ ?_)
    split
    · exact K.restoreLock _ _ _ hs
    · exact hs
  · exact K.beginStore _ _ (K.recordTrips _ _ _ hs)

theorem guardStage {s : State} (p : PortId) (a : Access) (hs : P s) : P (guardStage p a s) := by
  unfold Machine.guardStage
  dsimp only
  split
  · exact K.beginStore _ _ hs
  · split
    · exact K.setStage _ _ _ hs
    · exact K.finishCheck _ _ _ _ hs

omit K in
theorem lockRead_passes {s : State} {p : PortId} {a : Access} (hc : a.cls = .lockRead)
    (h : lockCheck p a s = none) :
    ∃ w, s.window? a.handle = some w ∧ w.kind ≠ .view ∧ w.draining = false ∧
      (s.port p).state = .active ∧ otherHolds p a.handle s = false ∧ s.lock p = none := by
  unfold lockCheck at h
  rw [hc] at h
  dsimp only at h
  cases hw : s.window? a.handle with
  | none => rw [hw] at h; cases h
  | some w =>
    rw [hw] at h
    dsimp only at h
    by_cases h0 : w.kind = .view
    · rw [if_pos h0] at h; cases h
    rw [if_neg h0] at h
    by_cases h1 : w.draining = true
    · rw [if_pos h1] at h; cases h
    rw [if_neg h1] at h
    by_cases h2 : (s.port p).state = .standby
    · rw [if_pos h2] at h; cases h
    rw [if_neg h2] at h
    by_cases h3 : otherHolds p a.handle s = true
    · rw [if_pos h3] at h; cases h
    rw [if_neg h3] at h
    by_cases h4 : (s.lock p).isSome = true
    · rw [if_pos h4] at h; cases h
    refine ⟨w, rfl, h0, by simpa using h1, ?_, by simpa using h3, by simpa using h4⟩
    cases hst : (s.port p).state with
    | active => rfl
    | standby => exact absurd hst h2

theorem grantAccess {s : State} (p : PortId) (a : Access) (hs : P s) : P (grantAccess p a s) := by
  unfold Machine.grantAccess
  split
  · exact K.giveUp (K.refuse _ _ _ hs)
  · rename_i hl
    split
    · exact K.beginStore _ _ hs
    · exact K.beginStore _ _ hs
    · rename_i hc
      obtain ⟨w, h1, h0, h2, _, h3, h4⟩ := lockRead_passes hc hl
      exact K.beginStore _ _ (K.lock p hs h1 h0 h2 h3 h4)
    · exact K.guardStage _ _ hs
    · exact K.guardStage _ _ (K.beginRelease p hs)

theorem grantLoop {s : State} (n : Nat) (hs : P s) : P (grantLoop n s) := by
  induction n generalizing s with
  | zero => exact hs
  | succ n ih =>
    unfold Machine.grantLoop
    split
    · exact hs
    · exact K.outer hs ⟨rfl, rfl, rfl, rfl, rfl, rfl, rfl, rfl⟩
    · split
      · exact hs
      · have hg := fun (p : PortId) (a : Access) => K.grantAccess p a
          (K.same (s := s) (t := { s with grant := some (.port p), pointer := p })
            ⟨rfl, rfl, rfl, rfl, rfl, rfl, rfl, rfl⟩ hs)
        dsimp only
        split
        · exact ih (hg _ _)
        · exact hg _ _

theorem arbitrate {s : State} (hs : P s) : P (arbitrate s) := by
  unfold Machine.arbitrate
  split
  · exact K.grantLoop 5 hs
  · exact hs

end Kept

end Sys2Proof.Machine
end

