-- ==== Sys2Proof/Laws/KeepsEngine.lean ====
section
/-! SUPPORT. The walk of `Kept` through the publish unit and the publish engine, with what each of them
leaves of the unit's state. -/

namespace Sys2Proof.Machine

/-! ### What freeing a window leaves -/

theorem window?_freed {s : State} {h : Handle} {w : Window} (hw : s.window? h = some w) :
    freeWindow h s = dropView w
      { setFree (s.free + w.marks) (s.setSlot h.index { s.slot h.index with win := none }) with
        guards := s.guards.map (keepGuard h),
        engine := { s.engine with drainQueue := s.engine.drainQueue.filter (· ≠ h) } } := by
  unfold freeWindow
  rw [hw]
  rfl

theorem dropView_eq (w : Window) (s : State) : dropView w s = { s with slots := (dropView w s).slots } := by
  unfold dropView
  split
  · split <;> rfl
  · rfl
  · rfl
  · rfl

@[simp] theorem dropView_pubUnit (w : Window) (s : State) : (dropView w s).pubUnit = s.pubUnit := by
  rw [dropView_eq]

@[simp] theorem freeWindow_pubUnit (h : Handle) (s : State) : (freeWindow h s).pubUnit = s.pubUnit := by
  unfold freeWindow
  split
  · rfl
  · simp

@[simp] theorem unlockNotice_pubUnit (h : Handle) (s : State) :
    (unlockNotice h s).pubUnit = s.pubUnit := by
  unfold unlockNotice
  split <;> rfl

@[simp] theorem breakLock_pubUnit (p : PortId) (s : State) : (breakLock p s).pubUnit = s.pubUnit := by
  unfold breakLock
  split <;> simp

@[simp] theorem breakWindowLock_pubUnit (h : Handle) (s : State) :
    (breakWindowLock h s).pubUnit = s.pubUnit := by
  unfold breakWindowLock
  split <;> simp

@[simp] theorem mergeWork_pubUnit (h : Handle) (s : State) : (mergeWork h s).pubUnit = s.pubUnit := by
  unfold mergeWork
  split
  · rfl
  · split <;> simp

@[simp] theorem setCopyPosition_pubUnit (h : Handle) (n : Nat) (s : State) :
    (setCopyPosition h n s).pubUnit = s.pubUnit := by
  unfold setCopyPosition
  split
  · rfl
  · split <;> simp

@[simp] theorem flip_pubUnit (r : PublishRecord) (s : State) : (flip r s).pubUnit = .ready := by
  unfold flip
  split
  · rfl
  · split <;> rfl

namespace Kept

variable {P : State → Prop} (K : Kept P)
include K

/-! ### The publish unit -/

theorem advance {s : State} (r : PublishRecord) (hs : P s) (hr : OkRecord s r) : P (advance r s).1 := by
  unfold Machine.advance
  split
  · exact K.unitReady hs
  · split
    · refine K.unit _ hs ?_
      intro q hq
      cases hq
      exact hr
    · exact K.flip r hs

omit K in
theorem advance_ready {s : State} {r : PublishRecord} (h : (Machine.advance r s).2 = true) :
    (Machine.advance r s).1.pubUnit = .ready := by
  unfold Machine.advance at h ⊢
  split
  · rfl
  · split
    · simp_all
    · simp

omit K in
theorem okRecord_new {s : State} {h : Handle} {w : Window} {p p' : Paired}
    (hp : s.paired? h = some (w, p)) (hc : p'.current = p.current) :
    OkRecord (s.setPaired h.index w p') (newRecord h p) :=
  .inr ⟨_, p', paired?_setPaired hp, by rw [hc]; rfl⟩

omit K in
theorem take_current (p : Paired) : p.take.current = p.current := by
  unfold Paired.take
  split <;> rfl

theorem startUnit {s : State} (h : Handle) (hs : P s) (hu : s.pubUnit = .ready) : P (startUnit h s).1 := by
  unfold Machine.startUnit
  split
  · exact K.unitReady hs
  · rename_i hp
    exact K.advance _ (K.take hs hu hp) (okRecord_new hp (take_current _))

omit K in
theorem startUnit_ready {s : State} {h : Handle} (hf : (Machine.startUnit h s).2 = true) :
    (Machine.startUnit h s).1.pubUnit = .ready := by
  unfold Machine.startUnit at hf ⊢
  split
  · rfl
  · simp_all [advance_ready]

theorem startHeld {s : State} (h : Handle) (hs : P s) (hu : s.pubUnit = .ready) : P (startHeld h s) := by
  unfold Machine.startHeld
  split
  · exact K.unitReady hs
  · rename_i hp
    refine K.unit _ (K.take hs hu hp) ?_
    intro q hq
    cases hq
    exact okRecord_new hp (take_current _)

/-- Changing the flags of the record at the unit leaves its window and its idle bank. -/
theorem sameRecord {s : State} {r0 : PublishRecord} (u : PubUnit) (hs : P s)
    (h0 : s.pubUnit.record? = some r0)
    (h : ∀ r, u.record? = some r → r0.handle = r.handle ∧ r0.idle = r.idle) :
    P { s with pubUnit := u } :=
  K.unit u hs fun r hr => .inl ⟨r0, h0, h r hr⟩

theorem requestAbandon {s : State} (c : AbandonCause) (hs : P s) : P (requestAbandon c s) := by
  unfold Machine.requestAbandon
  split
  · rename_i h; exact K.sameRecord _ hs (by rw [h]; rfl) (by intro r hr; cases hr; exact ⟨rfl, rfl⟩)
  · rename_i h; exact K.sameRecord _ hs (by rw [h]; rfl) (by intro r hr; cases hr; exact ⟨rfl, rfl⟩)
  all_goals exact hs

theorem requestSuspend {s : State} (hs : P s) : P (requestSuspend s) := by
  unfold Machine.requestSuspend
  split
  · rename_i h; exact K.sameRecord _ hs (by rw [h]; rfl) (by intro r hr; cases hr; exact ⟨rfl, rfl⟩)
  · rename_i h; exact K.sameRecord _ hs (by rw [h]; rfl) (by intro r hr; cases hr; exact ⟨rfl, rfl⟩)
  all_goals exact hs

theorem abandonPublish {s : State} (h : Handle) (hs : P s) : P (abandonPublish h s) :=
  K.unitReady (K.merge h hs)

theorem retireAtBoundary {s : State} (h : Handle) (hs : P s) : P (retireAtBoundary h s) :=
  K.complete _ _ (K.freeBroken h (K.unitReady hs) rfl)

theorem boundaryAction {s : State} {r0 : PublishRecord} (q r : PublishRecord) (hs : P s)
    (h0 : s.pubUnit.record? = some r0) (hh : r0.handle = r.handle) (hi : r0.idle = r.idle) :
    P (boundaryAction q r s).1 := by
  have hr : OkRecord s r := .inl ⟨r0, h0, hh, hi⟩
  unfold Machine.boundaryAction
  split
  · split
    · exact K.retireAtBoundary _ hs
    · exact K.abandonPublish _ hs
  · split
    · exact K.unitReady hs
    · split
      · exact K.unit _ hs (by intro q hq; cases hq; exact hr)
      · have := K.advance r hs hr
        split <;> simp_all

theorem boundary {s : State} {r0 : PublishRecord} (f : Bool) (r : PublishRecord) (hs : P s)
    (h0 : s.pubUnit.record? = some r0) (hh : r0.handle = r.handle) (hi : r0.idle = r.idle) :
    P (boundary f r s).1 := by
  unfold Machine.boundary
  split
  · have h1 := K.boundaryAction r.older r.wait hs h0 hh hi
    unfold freeAfter
    split
    · exact K.retireAtBoundary _ h1
    · exact h1
  · exact K.boundaryAction r r hs h0 hh hi

omit K in
theorem boundaryAction_ready {s : State} {q r : PublishRecord} {rep : UnitReport}
    (h : (Machine.boundaryAction q r s).2 = some rep) (hp : rep ≠ .paused) :
    (Machine.boundaryAction q r s).1.pubUnit = .ready := by
  revert h
  unfold Machine.boundaryAction
  split
  · split
    · intro _; simp [Machine.retireAtBoundary]
    · intro _; rfl
  · split
    · intro _; rfl
    · split
      · intro h
        exact absurd (Option.some.inj h).symm hp
      · have := @advance_ready s r
        split
        · intro _; simp_all
        · intro h; cases h

omit K in
/-- A boundary that reports anything but the entry into PAUSED leaves the unit READY. -/
theorem boundary_ready {s : State} {f : Bool} {r : PublishRecord} {rep : UnitReport}
    (h : (Machine.boundary f r s).2 = some rep) (hp : rep ≠ .paused) :
    (Machine.boundary f r s).1.pubUnit = .ready := by
  revert h
  unfold Machine.boundary
  split
  · unfold freeAfter
    split
    · intro _; simp [Machine.retireAtBoundary]
    · exact fun h => boundaryAction_ready h hp
  · exact fun h => boundaryAction_ready h hp

theorem failedBoundary {s : State} (r : PublishRecord) (a : Nat) (b : Bool) (hs : P s) :
    P (failedBoundary r a b s).1 := by
  have ht := K.raise .publishFault
    (K.offerFault (.lineCopy (BitVec.ofNat 32 a) b r.handle.index) hs)
  unfold Machine.failedBoundary
  dsimp only
  split
  · exact K.retireAtBoundary _ ht
  · exact K.abandonPublish _ ht

omit K in
theorem failedBoundary_ready (s : State) (r : PublishRecord) (a : Nat) (b : Bool) :
    (Machine.failedBoundary r a b s).1.pubUnit = .ready := by
  unfold Machine.failedBoundary
  dsimp only
  split
  · simp [Machine.retireAtBoundary]
  · rfl

/-! ### The engine -/

theorem drainFree {s : State} (o : DrainOutcome) (h : Handle) (hs : P s)
    (hq : h ∈ s.engine.drainQueue) (hu : s.pubUnit = .ready) : P (drainFree o h s) := by
  have := K.free h hs (.inr hq) (.inl (by rw [hu]; simp [PubUnit.record?]))
  unfold Machine.drainFree
  exact K.raise _ (K.outer this ⟨rfl, rfl, rfl, rfl, rfl, rfl, rfl, rfl⟩)

omit K in
@[simp] theorem drainFree_pubUnit (o : DrainOutcome) (h : Handle) (s : State) :
    (Machine.drainFree o h s).pubUnit = s.pubUnit := by
  unfold Machine.drainFree
  simp

theorem drainFailure {s : State} (h : Handle) (hs : P s) (hu : s.pubUnit = .ready) :
    P (drainFailure h s) := by
  unfold Machine.drainFailure
  split
  · exact hs
  · rename_i q qs hq
    split
    · rename_i hqh
      subst hqh
      split
      · exact hs
      · rename_i w p hp
        split
        · exact K.drainFree _ _ hs (by rw [hq]; simp) hu
        · exact K.requeue hs hq hp (by omega)
    · exact hs

omit K in
@[simp] theorem drainFailure_pubUnit (h : Handle) (s : State) :
    (Machine.drainFailure h s).pubUnit = s.pubUnit := by
  unfold Machine.drainFailure
  split
  · rfl
  · split
    · split
      · rfl
      · split <;> simp
    · rfl

theorem account {s : State} (pu : Purpose) (h : Handle) (rep : UnitReport) (hs : P s)
    (hu : s.pubUnit = .ready) : P (account pu h rep s) := by
  unfold Machine.account
  split
  · exact K.engineOnly (EngineOnly.modWork _ s) hs
  · exact K.engineOnly (EngineOnly.modUrgent _ s) hs
  · split
    · exact K.drainFailure h hs hu
    · exact hs

omit K in
@[simp] theorem account_pubUnit (pu : Purpose) (h : Handle) (rep : UnitReport) (s : State) :
    (Machine.account pu h rep s).pubUnit = s.pubUnit := by
  unfold Machine.account
  split
  · exact (EngineOnly.modWork _ s).pubUnit
  · exact (EngineOnly.modUrgent _ s).pubUnit
  · split <;> simp

theorem conclude {s : State} (pu : Purpose) (h : Handle) (rep : UnitReport) (hs : P s) :
    P (conclude pu h rep s) := K.engineOnly (EngineOnly.conclude pu h rep s) hs

theorem startPublish {s : State} (pu : Purpose) (st : EngineState) (h : Handle) (hs : P s)
    (hu : s.pubUnit = .ready) : P (startPublish pu st h s).1 := by
  have h1 := K.startUnit h (K.modEngine (s := s)
    (f := fun e => { e with state := st, heldFrom := none, purpose := some pu }) rfl hs) hu
  have h2 := @startUnit_ready (Machine.modEngine
    (fun e => { e with state := st, heldFrom := none, purpose := some pu }) s) h
  unfold Machine.startPublish
  split
  · rename_i t ht
    rw [ht] at h1
    exact h1
  · rename_i t ht
    rw [ht] at h1 h2
    exact K.conclude _ _ _ (K.account _ _ _ (K.modEngine (s := t) rfl h1) (h2 rfl))

omit K in
theorem startPublish_ready {s : State} {pu : Purpose} {st : EngineState} {h : Handle}
    (hf : (Machine.startPublish pu st h s).2 = true) :
    (Machine.startPublish pu st h s).1.pubUnit = .ready := by
  have h2 := @startUnit_ready (Machine.modEngine
    (fun e => { e with state := st, heldFrom := none, purpose := some pu }) s) h
  unfold Machine.startPublish at hf ⊢
  split
  · simp_all
  · rename_i t ht
    rw [ht] at h2
    have h3 : t.pubUnit = .ready := h2 rfl
    simp [(EngineOnly.conclude _ _ _ _).pubUnit, h3]

/-- A step of the choice keeps the predicate, and leaves the unit READY when it asks for the choice
again. -/
def Choice (P : State → Prop) (x : State × Bool) : Prop := P x.1 ∧ (x.2 = true → x.1.pubUnit = .ready)

theorem choice_engineOnly {s t : State} {b : Bool} (h : EngineOnly s t) (hs : P s)
    (hu : s.pubUnit = .ready) : Choice P (t, b) :=
  ⟨K.engineOnly h hs, fun _ => h.pubUnit.trans hu⟩

theorem choice_startPublish {s : State} (pu : Purpose) (st : EngineState) (h : Handle) (hs : P s)
    (hu : s.pubUnit = .ready) : Choice P (Machine.startPublish pu st h s) :=
  ⟨K.startPublish pu st h hs hu, startPublish_ready⟩

theorem processRegular {s : State} (h : Handle) (hs : P s) (hu : s.pubUnit = .ready) :
    Choice P (processRegular h s) := by
  unfold Machine.processRegular
  split
  · exact K.choice_engineOnly ((EngineOnly.modWork _ s).trans (EngineOnly.entryEnds _)) hs hu
  · split
    · exact K.choice_engineOnly ((EngineOnly.modWork _ s).trans (EngineOnly.entryEnds _)) hs hu
    · exact K.choice_startPublish _ _ h hs hu

theorem processUrgent {s : State} (h : Handle) (hs : P s) (hu : s.pubUnit = .ready) :
    Choice P (processUrgent h s) := by
  unfold Machine.processUrgent
  split
  · exact K.choice_engineOnly ((EngineOnly.modUrgent _ s).trans (EngineOnly.urgentEntryEnds _)) hs hu
  · split
    · exact K.choice_engineOnly ((EngineOnly.modUrgent _ s).trans (EngineOnly.urgentEntryEnds _)) hs hu
    · exact K.choice_startPublish _ _ h (K.engineOnly (EngineOnly.adopt h s) hs) hu

theorem drainStep {s : State} {h : Handle} {q : List Handle} (hq : s.engine.drainQueue = h :: q)
    (hs : P s) (hu : s.pubUnit = .ready) : Choice P (drainStep h s) := by
  unfold Machine.drainStep
  split
  · exact ⟨K.pop hs hq ‹_›, fun _ => hu⟩
  · split
    · exact ⟨K.drainFree _ _ hs (by rw [hq]; simp) hu, fun _ => by simpa using hu⟩
    · exact K.choice_startPublish _ _ h (K.engineOnly (EngineOnly.adopt h s) hs) hu

theorem resumeContext {s : State} (c : SuspendedCtx) (hs : P s) (hu : s.pubUnit = .ready) :
    Choice P (resumeContext c s) := by
  unfold Machine.resumeContext
  split
  · exact K.choice_engineOnly (EngineOnly.countContext _ _ s) hs hu
  · exact K.choice_engineOnly (EngineOnly.countContext _ _ s) hs hu
  · exact ⟨hs, fun h => by cases h⟩
  · split
    · exact K.choice_engineOnly (EngineOnly.countContext _ _ s) hs hu
    · split
      · refine ⟨?_, fun h => by cases h⟩
        exact K.startHeld _ (K.modEngine (s := s) rfl hs) hu
      · exact K.choice_startPublish _ _ _ (K.engineOnly (EngineOnly.dropContext s) hs) hu

theorem choiceStep {s : State} (hs : P s) (hu : s.pubUnit = .ready) : Choice P (choiceStep s) := by
  unfold Machine.choiceStep
  split
  · split
    · exact K.choice_engineOnly (EngineOnly.writeUrgent _ s) hs hu
    · exact K.processUrgent _ hs hu
  · split
    · exact K.choice_engineOnly (EngineOnly.beginUrgent s) hs hu
    · split
      · exact K.drainStep ‹_› hs hu
      · split
        · exact K.resumeContext _ hs hu
        · split
          · split
            · exact K.choice_engineOnly (EngineOnly.beginPass s) hs hu
            · split
              · exact K.choice_engineOnly (EngineOnly.finishPass s) hs hu
              · exact K.processRegular _ hs hu
          · split
            · exact K.choice_engineOnly
                ((EngineOnly.modEngine (s := s)
                  (f := fun e => { e with regularPending := false }) rfl).trans
                  (EngineOnly.beginRun _)) hs hu
            · exact K.choice_engineOnly (EngineOnly.settleIdle s) hs hu

theorem choiceLoop {s : State} (n : Nat) (hs : P s) (hu : s.pubUnit = .ready) : P (choiceLoop n s) := by
  induction n generalizing s with
  | zero => exact hs
  | succ n ih =>
    have h := K.choiceStep hs hu
    unfold Machine.choiceLoop
    split
    · rename_i t ht
      rw [ht] at h
      exact ih h.1 (h.2 rfl)
    · rename_i t ht
      rw [ht] at h
      exact h.1

theorem boundaryChoice {s : State} (hs : P s) : P (boundaryChoice s) := by
  unfold Machine.boundaryChoice
  split
  · exact K.choiceLoop _ hs ‹_›
  · exact hs

theorem abandonContext {s : State} (hs : P s) : P (abandonContext s) := by
  unfold Machine.abandonContext
  split
  · exact hs
  · refine K.engineOnly (EngineOnly.dropContext _) ?_
    split
    · exact K.merge _ hs
    · exact hs

theorem stopIdle {s : State} (hs : P s) : P (stopIdle s) :=
  K.complete _ _ (K.raise _ (K.engineOnly (s := s) ⟨rfl, rfl⟩ hs))

theorem stopEnd {s : State} (hs : P s) : P (stopEnd s) :=
  K.boundaryChoice (K.stopIdle (K.engineOnly (EngineOnly.writeUrgent _ _)
    (K.engineOnly (EngineOnly.stopPass _) (K.abandonContext hs))))

theorem takeReport {s : State} (h : Handle) (rep : UnitReport) (hs : P s) (hu : s.pubUnit = .ready) :
    P (takeReport h rep s) := by
  unfold Machine.takeReport
  split
  · exact hs
  · have h1 : ∀ pu, P (Machine.account pu h rep
        (Machine.modEngine (fun e => { e with purpose := none, heldFrom := none }) s)) := fun pu =>
      K.account pu h rep (K.modEngine (s := s)
        (f := fun e => { e with purpose := none, heldFrom := none }) rfl hs) hu
    dsimp only
    split
    · exact K.stopEnd (h1 _)
    · exact K.boundaryChoice (K.conclude _ _ _ (h1 _))

theorem takeReport? {s : State} (h : Handle) (rep : Option UnitReport) (hs : P s)
    (hu : ∀ r, rep = some r → r ≠ .paused → s.pubUnit = .ready) : P (takeReport? h rep s) := by
  unfold Machine.takeReport?
  split
  · exact hs
  · exact K.engineOnly (EngineOnly.enterHeld s) hs
  · rename_i r hr
    exact K.takeReport _ _ hs (hu r rfl (by rintro rfl; exact hr rfl))

/-! ### Triggers -/

theorem regularTrigger {s : State} (hs : P s) : P (regularTrigger s).1 := by
  unfold Machine.regularTrigger
  split
  · exact K.raise _ hs
  · split
    · exact K.boundaryChoice (K.engineOnly (EngineOnly.beginRun s) hs)
    · exact K.modEngine (s := s) (f := fun e => { e with regularPending := true }) rfl hs

theorem suspendHeld {s : State} (hs : P s) : P (suspendHeld s) := by
  unfold Machine.suspendHeld
  split
  · exact K.takeReport _ _ (K.unitReady hs) rfl
  all_goals exact hs

theorem urgentTrigger {s : State} (hs : P s) : P (urgentTrigger s).1 := by
  unfold Machine.urgentTrigger
  split
  · exact K.raise _ hs
  · have ht : P (Machine.modEngine (fun e => { e with urgentRequested := true }) s) :=
      K.modEngine (s := s) rfl hs
    dsimp only
    split
    · exact K.boundaryChoice ht
    · exact K.requestSuspend ht
    · exact K.suspendHeld ht
    all_goals exact ht

theorem abandonHeld {s : State} (c : AbandonCause) (hs : P s) : P (abandonHeld c s) := by
  unfold Machine.abandonHeld
  split
  · exact K.takeReport _ _ (K.abandonPublish _ hs) rfl
  all_goals exact hs

end Kept

end Sys2Proof.Machine
end

