-- ==== Sys2Proof/Laws/KeepsStep.lean ====
section
/-! SUPPORT. The walk of `Kept` through the commands, the accesses, the line copies, the resets and the
step. -/

namespace Sys2Proof.Machine

/-- Whatever state the outcome goes on with satisfies the predicate. -/
def Goes (P : State → Prop) (r : Result) : Prop := ∀ t, r = .next t → P t

theorem Goes.next {P : State → Prop} {t : State} (h : P t) : Goes P (.next t) := by
  intro u hu
  cases hu
  exact h

theorem Goes.fault {P : State → Prop} (f : Fault) : Goes P (.fault f) := by
  intro u hu
  cases hu

theorem Goes.whenRunning {P : State → Prop} {s : State} {f : State → Result} (hs : P s)
    (h : Goes P (f s)) : Goes P (whenRunning f s) := by
  unfold Machine.whenRunning
  split
  · exact Goes.next hs
  · exact h

theorem Goes.ite {P : State → Prop} {c : Prop} [Decidable c] {a b : Result} (ha : Goes P a)
    (hb : Goes P b) : Goes P (if c then a else b) := by
  split
  · exact ha
  · exact hb

theorem handle?_eq (u : PubUnit) : u.handle? = u.record?.map PublishRecord.handle := by
  cases u <;> rfl

theorem record_ne_of_handle? {u : PubUnit} {h : Handle} (hu : u.handle? ≠ some h) :
    ∀ r, u.record? = some r → r.handle ≠ h := by
  intro r hr hh
  rw [handle?_eq, hr, Option.map_some, hh] at hu
  exact hu rfl

/-- The lowest FREE slot is FREE (R6). -/
theorem freeSlot?_free {s : State} {i : SlotId} (h : s.freeSlot? = some i) : (s.slot i).win = none := by
  have := List.find?_some h
  simpa using this

theorem freeGuard?_free {s : State} {i : GuardId} (h : s.freeGuard? = some i) : s.guard i = none := by
  have := List.find?_some h
  simpa using this

theorem oprWindow_eq_some {s : State} {h : Handle} {w : Window} (hw : oprWindow s = some (h, w)) :
    oprHandle s 0 = some h ∧ s.window? h = some w := by
  unfold oprWindow at hw
  split at hw
  · cases hw
  · split at hw
    · cases hw
    · cases hw
      exact ⟨‹_›, ‹_›⟩

theorem openBody_marks {k : Kind} {l a b : Word} {x : Body} (h : openBody k l a b = some x)
    (w : Window) : ({ w with body := x } : Window).marks = 0 ∧
      ({ w with body := x } : Window).draining = false := by
  unfold openBody at h
  split at h
  · cases h
  · split at h
    · cases h; exact ⟨rfl, rfl⟩
    · cases h; exact ⟨rfl, rfl⟩
    · split at h
      · cases h; exact ⟨rfl, rfl⟩
      · cases h
    · cases h

/-- The window that OPEN's operands describe is in range, holds no marks and is ACTIVE (R7, R149). -/
theorem openOperands_spec {s : State} {w : Window} (h : openOperands s = some w) :
    rangeAllowed w.base w.pages = true ∧ w.marks = 0 ∧ w.draining = false := by
  unfold openOperands at h
  simp only [Option.bind_eq_bind, Option.bind_eq_some_iff] at h
  obtain ⟨_, _, ls, _, rm, _, wm, _, g, _, b, hb, h⟩ := h
  split at h
  · cases h
    rename_i hr
    exact ⟨hr, openBody_marks hb
      { base := opr s 2, pages := (field (opr s 3) 0 9).toNat, lineSize := ls, readMask := rm,
        writeMask := wm, group := g, body := b }⟩
  · cases h

theorem mem_windows {s : State} {v : Window} :
    v ∈ s.windows ↔ ∃ i, (s.slot i).win = some v := by
  unfold State.windows State.slot
  simp only [List.mem_filterMap, Vector.mem_toList_iff, Vector.mem_iff_getElem]
  constructor
  · rintro ⟨x, ⟨i, hi, rfl⟩, hx⟩
    exact ⟨⟨i, hi⟩, hx⟩
  · rintro ⟨i, hi⟩
    exact ⟨_, ⟨i.val, i.isLt, rfl⟩, hi⟩

theorem rangeOverlaps_eq_false {s : State} {w : Window} :
    rangeOverlaps w s = false ↔ ∀ i v, (s.slot i).win = some v → rangesMeet w v = false := by
  unfold rangeOverlaps
  rw [List.any_eq_false]
  simp only [mem_windows, forall_exists_index, Bool.not_eq_true]
  exact ⟨fun h i v hv => h v i hv, fun h v i hv => h i v hv⟩

theorem storeConflict_eq_false {s : State} {w : Window} :
    storeConflict w s = false ↔
      (∀ a ∈ w.regions, s.inStore a w.size = true) ∧ regionsDisjoint w.size w.regions = true ∧
        ∀ i v, (s.slot i).win = some v → regionsMeet w v = false := by
  unfold storeConflict
  simp only [Bool.or_eq_false_iff, List.any_eq_false, mem_windows, forall_exists_index,
    Bool.not_eq_true, Bool.not_eq_false, Bool.not_eq_eq_eq_not, Bool.not_true, Bool.not_false]
  exact ⟨fun h => ⟨h.1.1, h.1.2, fun i v hv => h.2 v i hv⟩,
    fun h => ⟨⟨h.1, h.2.1⟩, fun v i hv => h.2.2 i v hv⟩⟩

theorem viewWindow_fillable {s : State} {base : Word} {rm : BitVec 4} {g : Fin 4} {h : Handle}
    {w : Window} {p p' : Paired} (hp : s.paired? h = some (w, p))
    (hr : rangeAllowed base w.pages = true) (ho : rangeOverlaps (viewWindow base rm g h w) s = false) :
    Fillable (s.setPaired h.index w p') (viewWindow base rm g h w) := by
  have hw := (paired?_eq_some.1 hp).1
  rw [window?_eq_some] at hw
  rw [rangeOverlaps_eq_false] at ho
  refine ⟨hr, ?_, ?_, rfl, rfl⟩
  · rw [rangeOverlaps_eq_false]
    intro i v hv
    rw [slot_setPaired] at hv
    split at hv
    · rename_i hi
      subst hi
      cases hv
      exact ho _ w hw.2
    · exact ho i v hv
  · rw [storeConflict_eq_false]
    refine ⟨fun a ha => ?_, rfl, fun i v _ => rfl⟩
    simp [viewWindow, Window.regions] at ha

namespace Kept

variable {P : State → Prop} (K : Kept P)
include K

/-! ### Commands -/

theorem takeCommand {s : State} {code cnt : BitVec 8} {body : State → State} (hs : P s)
    (h : ∀ t, P t → P (body t)) : Goes P (takeCommand code cnt body s) := by
  refine Goes.whenRunning hs ?_
  split
  · exact Goes.next (K.outer hs ⟨rfl, rfl, rfl, rfl, rfl, rfl, rfl, rfl⟩)
  · exact Goes.next (h _ (K.accept _ _ hs))

theorem fillAndComplete {s : State} {i : SlotId} {w : Window} (hs : P s) (hi : (s.slot i).win = none)
    (hw : Fillable s w) : P (fillAndComplete i w s) := K.complete _ _ (K.fill i w hs hi hw)

theorem openCommand {s : State} (hs : P s) : P (openCommand s) := by
  unfold Machine.openCommand
  split
  · exact K.refuseCommand _ hs
  · rename_i i hi
    split
    · exact K.refuseCommand _ hs
    · rename_i w hw
      obtain ⟨h1, h2, h3⟩ := openOperands_spec hw
      split
      · exact K.refuseCommand _ hs
      · split
        · exact K.refuseCommand _ hs
        · split
          · exact K.refuseCommand _ hs
          · exact K.fillAndComplete hs (freeSlot?_free hi)
              ⟨h1, by simpa using ‹¬rangeOverlaps w s = true›, by simpa using ‹¬storeConflict w s = true›,
                h2, h3⟩

theorem viewCommand {s : State} (hs : P s) : P (viewCommand s) := by
  unfold Machine.viewCommand
  split
  · exact K.refuseCommand _ hs
  · rename_i i hi
    split
    · exact K.refuseCommand _ hs
    · rename_i rm g _
      split
      · exact K.refuseCommand _ hs
      · rename_i h w hw
        have hm := (oprWindow_eq_some hw).2
        split
        · exact K.refuseCommand _ hs
        · split
          · exact K.refuseCommand _ hs
          · exact K.refuseCommand _ hs
          · exact K.refuseCommand _ hs
          · rename_i p hb
            have hp : s.paired? h = some (w, p) := paired?_eq_some.2 ⟨hm, hb⟩
            dsimp only
            split
            · exact K.refuseCommand _ hs
            · rename_i hr
              split
              · exact K.refuseCommand _ hs
              · split
                · exact K.refuseCommand _ hs
                · rename_i ho
                  refine K.fillAndComplete (K.views _ hs hp) ?_
                    (viewWindow_fillable hp (by simpa [viewWindow] using hr) (by simpa using ho))
                  have hf := freeSlot?_free hi
                  rw [slot_setPaired, if_neg]
                  · exact hf
                  · rintro rfl
                    rw [window?_eq_some, hf] at hm
                    cases hm.2

theorem modifyCommand {s : State} (hs : P s) : P (modifyCommand s) := by
  unfold Machine.modifyCommand
  split
  · exact K.refuseCommand _ hs
  · rename_i h w hw
    split
    · exact K.refuseCommand _ hs
    · split
      · exact K.refuseCommand _ hs
      · split
        · exact K.refuseCommand _ hs
        · split
          · exact K.refuseCommand _ hs
          · exact K.complete _ _ (K.rights _ _ _ hs (oprWindow_eq_some hw).2)

theorem retireNow {s : State} (h : Handle) (hs : P s)
    (hl : s.isLocked h = false ∨ h ∈ s.engine.drainQueue)
    (hu : (∀ r, s.pubUnit.record? = some r → r.handle ≠ h) ∨ s.paired? h = none) :
    P (retireNow h s) := K.complete _ _ (K.free h hs hl hu)

theorem retirePaired {s : State} (h : Handle) (hs : P s) (hl : s.isLocked h = false) :
    P (retirePaired h s) := by
  unfold Machine.retirePaired
  split
  · split
    · refine K.takeReport _ _ (K.retireNow h (K.unitReady hs) (.inl hl) (.inl ?_)) ?_
      · intro r hr; cases hr
      · simp [Machine.retireNow]
    · exact K.requestAbandon _ hs
  · exact K.retireNow h hs (.inl hl) (.inl (record_ne_of_handle? ‹_›))

theorem enterDraining {s : State} {h : Handle} {w : Window} {p : Paired} (hs : P s)
    (hp : s.paired? h = some (w, p)) (hd : w.draining = false) (hl : s.isLocked h = false) :
    P (enterDraining h w p s) := by
  have h1 := K.complete .accepted [] (K.enter hs hp hd hl)
  unfold Machine.enterDraining
  dsimp only
  split
  · exact K.boundaryChoice h1
  · exact h1

theorem retireCommand {s : State} (hs : P s) : P (retireCommand s) := by
  unfold Machine.retireCommand
  dsimp only
  split
  · exact K.refuseCommand _ hs
  · rename_i h w hw
    have hm := (oprWindow_eq_some hw).2
    have hnone : (∀ p, w.body ≠ .paired p) → s.paired? h = none := by
      intro hb
      cases hp : s.paired? h with
      | none => rfl
      | some x =>
        obtain ⟨h1, h2⟩ := paired?_eq_some.1 (show s.paired? h = some (x.1, x.2) from hp)
        rw [hm] at h1
        cases h1
        exact absurd h2 (hb _)
    split
    · exact K.refuseCommand _ hs
    · rename_i hl
      have hl : s.isLocked h = false := by simpa using hl
      split
      · exact K.refuseCommand _ hs
      · split
        · exact K.refuseCommand _ hs
        · rename_i hdf
          split
          · rename_i hb; exact K.retireNow h hs (.inl hl) (.inr (hnone (by simp [hb])))
          · rename_i hb; exact K.retireNow h hs (.inl hl) (.inr (hnone (by simp [hb])))
          · rename_i hb; exact K.retireNow h hs (.inl hl) (.inr (hnone (by simp [hb])))
          · rename_i p hb
            split
            · exact K.refuseCommand _ hs
            · split
              · rename_i hf
                exact K.enterDraining hs (paired?_eq_some.2 ⟨hm, hb⟩) (by simpa [hf] using hdf) hl
              · exact K.retirePaired h hs hl

theorem queryCommand {s : State} (hs : P s) : P (queryCommand s) := by
  unfold Machine.queryCommand
  split
  · exact K.refuseCommand _ hs
  · exact K.complete _ _ hs

theorem lookupCommand {s : State} (hs : P s) : P (lookupCommand s) := by
  unfold Machine.lookupCommand
  split
  · exact K.refuseCommand _ hs
  · split
    · exact K.refuseCommand _ hs
    · exact K.complete _ _ hs

theorem groupCommand {s : State} (hs : P s) : P (groupCommand s) := by
  unfold Machine.groupCommand
  split
  · exact K.complete _ _ (K.outer hs ⟨rfl, rfl, rfl, rfl, rfl, rfl, rfl, rfl⟩)
  · exact K.refuseCommand _ hs
  · exact K.refuseCommand _ hs

omit K in
theorem guardOperands_fields {s : State} {h : Handle} {w : Window} {g : Guard}
    (hg : guardOperands s h w = some g) :
    g.window = h ∧ g.offset % 4 = 0 ∧ g.offset < w.size ∧ g.mask ≠ 0 ∧
      rangeOrdered g.sign g.low g.high = true := by
  unfold guardOperands at hg
  simp only [Option.bind_eq_bind, Option.bind_eq_some_iff] at hg
  obtain ⟨sg, _, ac, _, mk, _, hg⟩ := hg
  split at hg
  · rename_i hc
    cases hg
    simp only [Bool.and_eq_true, beq_iff_eq, decide_eq_true_eq, bne_iff_ne] at hc
    exact ⟨rfl, hc.1.1.1, hc.1.1.2, hc.1.2, hc.2⟩
  · cases hg

theorem guardCommand {s : State} (hs : P s) : P (guardCommand s) := by
  unfold Machine.guardCommand
  split
  · exact K.refuseCommand _ hs
  · rename_i h w hw
    have hm := (oprWindow_eq_some hw).2
    split
    · exact K.refuseCommand _ hs
    · rename_i hv
      split
      · exact K.refuseCommand _ hs
      · split
        · exact K.refuseCommand _ hs
        · rename_i g hg
          have hgw : g.window = h := (guardOperands_fields hg).1
          subst hgw
          split
          · exact K.refuseCommand _ hs
          · rename_i hd
            split
            · exact K.refuseCommand _ hs
            · rename_i i hi
              exact K.complete _ _ (K.guardFill i g hs (freeGuard?_free hi) hm (by simpa using hv) hg
                (by simpa using hd))

theorem unguardCommand {s : State} (hs : P s) : P (unguardCommand s) := by
  unfold Machine.unguardCommand
  split
  · exact K.refuseCommand _ hs
  · split
    · exact K.refuseCommand _ hs
    · split
      · exact K.complete _ _ (K.guardDrop _ hs)
      · exact K.refuseCommand _ hs

theorem guardqCommand {s : State} (hs : P s) : P (guardqCommand s) := by
  unfold Machine.guardqCommand
  split
  · exact K.refuseCommand _ hs
  · rename_i i _
    refine K.complete _ _ ?_
    split
    · cases hg : s.guard i with
      | none => exact K.guardDrop _ hs
      | some g => exact K.guardTrip none hs hg
    · exact hs

theorem seqCommand {s : State} (cnt : BitVec 8) (hs : P s) : P (seqCommand cnt s) := by
  unfold Machine.seqCommand
  split
  · exact K.refuseCommand _ hs
  · split
    · exact K.refuseCommand _ hs
    · rename_i l _
      have h1 := K.complete .done [] (K.engineOnly (s := s)
        (t := Machine.modEngine (fun e => { e with regularSeq := l }) s) ⟨rfl, rfl⟩ hs)
      generalize Machine.complete .done [] (Machine.modEngine (fun e => { e with regularSeq := l }) s) = t at h1
      unfold Machine.seqEffect
      split
      · exact K.engineOnly (EngineOnly.restartPass _) (K.abandonContext h1)
      · split
        · exact K.abandonHeld _ (K.engineOnly (s := t) ⟨rfl, rfl⟩ h1)
        · split
          · exact K.requestAbandon _ (K.engineOnly (s := t) ⟨rfl, rfl⟩ h1)
          · split
            · split
              · exact K.engineOnly (EngineOnly.restartPass _) h1
              · exact K.engineOnly ((EngineOnly.writePass _ t).trans ⟨rfl, rfl⟩) h1
            · exact h1

theorem useqCommand {s : State} (cnt : BitVec 8) (hs : P s) : P (useqCommand cnt s) := by
  unfold Machine.useqCommand
  split
  · exact K.refuseCommand _ hs
  · split
    · exact K.refuseCommand _ hs
    · rename_i l _
      have h1 := K.complete .done [] (K.engineOnly (s := s)
        (t := Machine.modEngine (fun e => { e with urgentList := l }) s) ⟨rfl, rfl⟩ hs)
      generalize Machine.complete .done [] (Machine.modEngine (fun e => { e with urgentList := l }) s) = t at h1
      unfold Machine.useqEffect
      split
      · exact h1
      · dsimp only
        split
        · exact K.abandonHeld _ (K.engineOnly (s := t) ⟨rfl, rfl⟩ h1)
        · exact K.requestAbandon _ (K.engineOnly (s := t) ⟨rfl, rfl⟩ h1)

theorem engsetCommand {s : State} (hs : P s) : P (engsetCommand s) := by
  unfold Machine.engsetCommand
  split
  · exact K.refuseCommand _ hs
  · split
    · exact K.refuseCommand _ hs
    · split
      · exact K.refuseCommand _ hs
      · exact K.complete _ _ (K.outer hs ⟨rfl, rfl, rfl, rfl, rfl, rfl, rfl, rfl⟩)

theorem startCommand {s : State} (hs : P s) : P (startCommand s) :=
  K.complete _ _ (K.regularTrigger hs)

theorem urgentCommand {s : State} (hs : P s) : P (urgentCommand s) :=
  K.complete _ _ (K.urgentTrigger hs)

theorem stopHeld {s : State} (hs : P s) : P (stopHeld s) := by
  unfold Machine.stopHeld
  split
  · exact K.stopEnd (K.abandonPublish _ hs)
  all_goals exact K.stopEnd hs

theorem enterStopping {s : State} (hs : P s) : P (enterStopping s) :=
  K.requestAbandon _ (K.engineOnly (s := s) ⟨rfl, rfl⟩ hs)

theorem stopCommand {s : State} (hs : P s) : P (stopCommand s) := by
  unfold Machine.stopCommand
  split
  · exact K.complete _ _ hs
  · exact K.stopHeld hs
  · exact K.enterStopping hs
  · exact K.enterStopping hs
  · exact K.enterStopping hs
  · exact hs

theorem breakCommand {s : State} (hs : P s) : P (breakCommand s) := by
  unfold Machine.breakCommand
  split
  · unfold breakOneForm
    split
    · exact K.refuseCommand _ hs
    · split
      · exact K.complete _ _ hs
      · exact K.complete _ _ (K.breakLock _ hs)
  · split
    · unfold setLimitForm
      split
      · exact K.refuseCommand _ hs
      · exact K.complete _ _ (K.outer hs ⟨rfl, rfl, rfl, rfl, rfl, rfl, rfl, rfl⟩)
    · exact K.refuseCommand _ hs

theorem portCommand {s : State} (hs : P s) : P (portCommand s) := by
  unfold Machine.portCommand
  split
  · refine K.complete _ _ ?_
    unfold setPortState
    dsimp only
    split
    · exact K.setPort _ _ hs
    · exact K.breakLock _ (K.setPort _ _ hs)
  · exact K.refuseCommand _ hs
  · exact K.refuseCommand _ hs

theorem restartCommand {s : State} (hs : P s) : P (restartCommand s) := by
  unfold Machine.restartCommand
  dsimp only
  split
  · exact K.complete _ _ (K.restart hs)
  · exact K.restart hs

theorem paceExpires {s : State} (hs : P s) : P (paceExpires s) := by
  unfold Machine.paceExpires
  split
  · exact K.arbitrate (K.regularTrigger (K.engineOnly (s := s) ⟨rfl, rfl⟩ hs))
  · exact hs

/-! ### Accesses -/

theorem answerUnhit {s : State} (p : PortId) (c : AccessClass) (z : AccessSize) (a : Word) (r : Resp)
    (hs : P s) : P (answerUnhit p c z a r s) := K.respond _ _ _ (K.accessFault _ _ _ _ _ hs)

theorem takeAccess {s : State} (p : PortId) (c : AccessClass) (z : AccessSize) (a : Word) (d : BitVec 64)
    (hs : P s) : P (takeAccess p c z a d s) := by
  unfold Machine.takeAccess
  dsimp only
  split
  · exact K.answerUnhit _ _ _ _ _ hs
  · split
    · exact K.answerUnhit _ _ _ _ _ hs
    · split
      · exact K.refuse _ _ _ hs
      · exact K.arbitrate (K.setPort _ _ hs)

theorem failedWrite {s : State} (a n : Nat) (hs : P s) : P (storeWriteFailed a n s) :=
  K.outer (K.store a (unstatedBytes s.fresh a n) hs) ⟨rfl, rfl, rfl, rfl, rfl, rfl, rfl, rfl⟩

theorem accessWrite {s : State} (a : Access) (x : Option Nat) (e : Bool) (hs : P s) :
    P (accessWrite a x e s) := by
  unfold Machine.accessWrite
  split
  · exact hs
  · split
    · exact K.failedWrite _ _ hs
    · exact K.store _ _ hs

theorem markWrite {s : State} (a : Access) (hs : P s) : P (markWrite a s) := by
  unfold Machine.markWrite
  split
  · exact K.mark _ _ hs
  · exact hs

theorem handOver {s : State} (p : PortId) (a : Access) (hs : P s) : P (handOver p a s) := by
  unfold Machine.handOver
  dsimp only
  split
  · exact K.finishRelease _ _ (K.markWrite _ hs)
  · exact K.markWrite _ hs

theorem storeDone {s : State} (p : PortId) (a : Access) (x : Option Nat) (e : Bool) (hs : P s) :
    P (storeDone p a x e s) := by
  refine K.arbitrate (K.giveUp ?_)
  split
  · unfold readDone
    split
    · exact K.refuse _ _ _ hs
    · exact K.answer _ _ _ _ (K.outer hs ⟨rfl, rfl, rfl, rfl, rfl, rfl, rfl, rfl⟩)
  · exact K.answer _ _ _ _ (K.handOver _ _ (K.accessWrite _ _ _ hs))

theorem storeAccessDone {s : State} (e : Bool) (hs : P s) : Goes P (storeAccessDone e s) := by
  unfold Machine.storeAccessDone
  split
  · exact Goes.next hs
  · split
    · exact Goes.next hs
    · exact Goes.next hs
    · split
      · exact Goes.next (K.storeDone _ _ _ _ hs)
      · exact Goes.fault _

theorem mergingReadDone {s : State} (e : Bool) (t : Nat) (hs : P s) : Goes P (mergingReadDone e t s) := by
  unfold Machine.mergingReadDone
  split
  · exact Goes.next hs
  · split
    · exact Goes.next hs
    · exact Goes.next hs
    · split
      · exact Goes.next hs
      · split
        · refine Goes.next (K.arbitrate ?_)
          split
          · exact K.giveUp (K.answer _ _ _ _ (K.handOver _ _ hs))
          · exact K.finishCheck _ _ _ _ hs
        · exact Goes.fault _

/-! ### Line copies and the continue -/

theorem orphanEnd {s : State} (hs : P s) : P (orphanEnd s) :=
  K.boundaryChoice (K.complete _ _ (K.unitReady hs))

theorem unitStep {s : State} {f : State → State} (hs : P s) (h : ∀ t, P t → t.pubUnit = s.pubUnit →
    P (f t)) : Goes P (unitStep f s) := Goes.next (K.arbitrate (h _ (K.giveUp hs) rfl))

theorem reportBoundary {x : State × Option UnitReport} (h : Handle) (hx : P x.1)
    (hu : ∀ r, x.2 = some r → r ≠ .paused → x.1.pubUnit = .ready) : P (reportBoundary h x) :=
  K.takeReport? _ _ hx hu

theorem copyReadDone {s : State} (r : PublishRecord) (n a len : Nat) (e : Bool) (hs : P s)
    (hu : s.pubUnit.record? = some r) : P (copyReadDone r n a len e s) := by
  unfold Machine.copyReadDone
  split
  · exact K.reportBoundary _ (K.failedBoundary _ _ _ hs) (fun _ _ _ => failedBoundary_ready _ _ _ _)
  · exact K.sameRecord _ hs hu (by intro q hq; cases hq; exact ⟨rfl, rfl⟩)

theorem copyWriteDone {s : State} (r : PublishRecord) (n a : Nat) (bs : List Byte) (e f : Bool) (hs : P s)
    (hu : s.pubUnit.record? = some r) : P (copyWriteDone r n a bs e f s) := by
  unfold Machine.copyWriteDone
  split
  · exact K.reportBoundary _ (K.failedBoundary _ _ _ (K.failedWrite _ _ hs))
      (fun _ _ _ => failedBoundary_ready _ _ _ _)
  · refine K.reportBoundary _ (K.boundary f r (K.position _ _ (K.engineOnly (EngineOnly.noteCopied _)
      (K.store _ _ hs))) ?_ rfl rfl) (fun _ h1 h2 => boundary_ready h1 h2)
    rw [setCopyPosition_pubUnit, (EngineOnly.noteCopied _).pubUnit, storeWrite_pubUnit]
    exact hu

theorem lineCopyReadDone {s : State} (e : Bool) (hs : P s) : Goes P (lineCopyReadDone e s) := by
  unfold Machine.lineCopyReadDone
  split
  · split
    · exact Goes.next hs
    · exact Goes.next hs
    · exact Goes.next hs
    · exact Goes.next hs
    · rename_i r n hu
      split
      · exact K.unitStep hs fun t ht _ => K.unitReady ht
      · split
        · exact K.unitStep hs fun t ht hp => K.copyReadDone _ _ _ _ _ ht (by rw [hp, hu]; rfl)
        · exact Goes.fault _
    · split
      · refine K.unitStep hs fun t ht _ => ?_
        unfold orphanReadDone
        split
        · exact K.orphanEnd ht
        · exact K.unit _ ht (by intro r hr; cases hr)
      · exact Goes.fault _
  · exact Goes.next hs

theorem lineBoundary {s : State} (e f : Bool) (hs : P s) : Goes P (lineBoundary e f s) := by
  unfold Machine.lineBoundary
  split
  · split
    · exact Goes.next hs
    · exact Goes.next hs
    · exact Goes.next hs
    · exact Goes.next hs
    · rename_i r n bs hu
      split
      · exact K.unitStep hs fun t ht _ => K.unitReady ht
      · split
        · exact K.unitStep hs fun t ht hp => K.copyWriteDone _ _ _ _ _ _ ht (by rw [hp, hu]; rfl)
        · exact Goes.fault _
    · split
      · refine K.unitStep hs fun t ht _ => K.orphanEnd ?_
        split
        · exact K.failedWrite _ _ ht
        · exact K.store _ _ ht
      · exact Goes.fault _
  · exact Goes.next hs

theorem takeContinue {s : State} (hs : P s) : P (takeContinue s) := by
  have ht : P { s with continues := s.continues - 1 } :=
    K.outer hs ⟨rfl, rfl, rfl, rfl, rfl, rfl, rfl, rfl⟩
  unfold Machine.takeContinue
  dsimp only
  split
  all_goals first
    | exact ht
    | (rename_i r hu
       split
       · exact ht
       · refine K.arbitrate ?_
         have h1 := K.engineOnly (EngineOnly.leaveHeld _) ht
         have h2 := K.advance r h1 (.inl ⟨r, by rw [(EngineOnly.leaveHeld _).pubUnit]; simp [hu, PubUnit.record?],
           rfl, rfl⟩)
         have hrd : ∀ {t}, Machine.advance r (leaveHeld { s with continues := s.continues - 1 }) = (t, true) →
             t.pubUnit = .ready := by
           intro t hx
           have := advance_ready (s := leaveHeld { s with continues := s.continues - 1 }) (r := r) (by rw [hx])
           rwa [hx] at this
         unfold leavePaused
         split
         · rename_i t hx
           rw [hx] at h2
           exact K.takeReport _ _ h2 (hrd hx)
         · rename_i t hx
           rw [hx] at h2
           exact h2)

/-! ### Resets -/

theorem maybeWrite {s : State} (x : Nat) (bs : List Byte) (hs : P s) : P (maybeWrite x bs s) := by
  have ht : P { s with fresh := s.fresh + 1 } := K.outer hs ⟨rfl, rfl, rfl, rfl, rfl, rfl, rfl, rfl⟩
  unfold Machine.maybeWrite
  dsimp only
  split
  · exact K.store _ _ ht
  · exact ht

theorem interruptStore {s : State} (hs : P s) : P (interruptStore s) := by
  unfold Machine.interruptStore
  split
  · exact hs
  · unfold interruptCopy
    split
    · exact hs
    · exact hs
    · exact hs
    · exact hs
    · exact K.maybeWrite _ _ hs
    · split
      · exact hs
      · exact K.maybeWrite _ _ hs
  · split
    · exact hs
    · unfold interruptAccess
      split
      · exact hs
      · exact hs
      · exact hs
      · split
        · exact hs
        · exact K.maybeWrite _ _ hs

theorem coldResetBegins {s : State} (c : ColdCause) (hs : P s) : P (coldResetBegins c s) := by
  have h1 := K.unitReady (K.interruptStore hs)
  exact K.outer h1 ⟨rfl, rfl, rfl, rfl, rfl, rfl, rfl, rfl⟩

/-! ### The register window, the ticks and the step -/

theorem commandWordWrite {s : State} (w : Word) (hs : P s) : Goes P (commandWordWrite w s) := by
  unfold Machine.commandWordWrite
  refine Goes.ite (K.takeCommand hs fun _ h => K.openCommand h) ?_
  refine Goes.ite (K.takeCommand hs fun _ h => K.viewCommand h) ?_
  refine Goes.ite (K.takeCommand hs fun _ h => K.modifyCommand h) ?_
  refine Goes.ite (K.takeCommand hs fun _ h => K.arbitrate (K.retireCommand h)) ?_
  refine Goes.ite (K.takeCommand hs fun _ h => K.queryCommand h) ?_
  refine Goes.ite (K.takeCommand hs fun _ h => K.lookupCommand h) ?_
  refine Goes.ite (K.takeCommand hs fun _ h => K.groupCommand h) ?_
  refine Goes.ite (K.takeCommand hs fun _ h => K.collect h) ?_
  refine Goes.ite (K.takeCommand hs fun _ h => K.guardCommand h) ?_
  refine Goes.ite (K.takeCommand hs fun _ h => K.unguardCommand h) ?_
  refine Goes.ite (K.takeCommand hs fun _ h => K.guardqCommand h) ?_
  refine Goes.ite (K.takeCommand hs fun _ h => K.arbitrate (K.seqCommand _ h)) ?_
  refine Goes.ite (K.takeCommand hs fun _ h => K.arbitrate (K.useqCommand _ h)) ?_
  refine Goes.ite (K.takeCommand hs fun _ h => K.engsetCommand h) ?_
  refine Goes.ite (K.takeCommand hs fun _ h => K.arbitrate (K.startCommand h)) ?_
  refine Goes.ite (K.takeCommand hs fun _ h => K.arbitrate (K.urgentCommand h)) ?_
  refine Goes.ite (K.takeCommand hs fun _ h => K.arbitrate (K.stopCommand h)) ?_
  refine Goes.ite (K.takeCommand hs fun _ h => K.breakCommand h) ?_
  refine Goes.ite (K.takeCommand hs fun _ h => K.portCommand h) ?_
  refine Goes.ite (K.takeCommand hs fun _ h => K.restartCommand h) ?_
  exact K.takeCommand hs fun _ h => K.refuseCommand _ h

theorem runningNext {s : State} {f : State → State} (hs : P s)
    (h : Same s (f s)) : Goes P (Machine.whenRunning (fun t => .next (f t)) s) :=
  Goes.whenRunning hs (Goes.next (K.outer hs h))

theorem eventClear {s : State} (v : Word) (hs : P s) : Goes P (execEventClear v s) :=
  K.runningNext hs ⟨rfl, rfl, rfl, rfl, rfl, rfl, rfl, rfl⟩

theorem eventEnable {s : State} (v : Word) (hs : P s) : Goes P (execEventEnable v s) :=
  K.runningNext hs ⟨rfl, rfl, rfl, rfl, rfl, rfl, rfl, rfl⟩

theorem faultClear {s : State} (v : Word) (hs : P s) : Goes P (execFaultClear v s) := by
  refine K.runningNext hs ?_
  unfold clearFault
  split <;> exact ⟨rfl, rfl, rfl, rfl, rfl, rfl, rfl, rfl⟩

theorem operandWrite {s : State} (n : Fin 8) (v : Word) (hs : P s) : Goes P (execOperandWrite n v s) :=
  K.runningNext hs ⟨rfl, rfl, rfl, rfl, rfl, rfl, rfl, rfl⟩

theorem managementWrite {s : State} (a v : Word) (hs : P s) : Goes P (managementWrite a v s) := by
  unfold Machine.managementWrite
  dsimp only
  split
  · exact K.commandWordWrite v hs
  · split
    · exact K.eventClear v hs
    · split
      · exact K.eventEnable v hs
      · split
        · exact K.faultClear v hs
        · split
          · exact K.operandWrite _ v hs
          · exact Goes.next hs

/-- Every command keeps the predicate. -/
theorem exec {s : State} (c : Instr) (hs : P s) : Goes P (exec c s) := by
  cases c with
  | openWindow cnt => exact K.takeCommand hs fun _ h => K.openCommand h
  | openView cnt => exact K.takeCommand hs fun _ h => K.viewCommand h
  | modify cnt => exact K.takeCommand hs fun _ h => K.modifyCommand h
  | retire cnt => exact K.takeCommand hs fun _ h => K.arbitrate (K.retireCommand h)
  | query cnt => exact K.takeCommand hs fun _ h => K.queryCommand h
  | lookup cnt => exact K.takeCommand hs fun _ h => K.lookupCommand h
  | group cnt => exact K.takeCommand hs fun _ h => K.groupCommand h
  | collect cnt => exact K.takeCommand hs fun _ h => K.collect h
  | guardSet cnt => exact K.takeCommand hs fun _ h => K.guardCommand h
  | unguard cnt => exact K.takeCommand hs fun _ h => K.unguardCommand h
  | guardq cnt => exact K.takeCommand hs fun _ h => K.guardqCommand h
  | seq cnt => exact K.takeCommand hs fun _ h => K.arbitrate (K.seqCommand cnt h)
  | useq cnt => exact K.takeCommand hs fun _ h => K.arbitrate (K.useqCommand cnt h)
  | engset cnt => exact K.takeCommand hs fun _ h => K.engsetCommand h
  | start cnt => exact K.takeCommand hs fun _ h => K.arbitrate (K.startCommand h)
  | urgent cnt => exact K.takeCommand hs fun _ h => K.arbitrate (K.urgentCommand h)
  | stop cnt => exact K.takeCommand hs fun _ h => K.arbitrate (K.stopCommand h)
  | breakOne cnt => exact K.takeCommand hs fun _ h => K.breakCommand h
  | setLimit cnt => exact K.takeCommand hs fun _ h => K.breakCommand h
  | port cnt => exact K.takeCommand hs fun _ h => K.portCommand h
  | restart cnt => exact K.takeCommand hs fun _ h => K.restartCommand h
  | unknownCommand w => exact K.commandWordWrite w hs
  | commandWordIgnored w => exact K.commandWordWrite w hs
  | operandWrite n v => exact K.operandWrite n v hs
  | eventClear v => exact K.eventClear v hs
  | eventEnableWrite v => exact K.eventEnable v hs
  | faultClear v => exact K.faultClear v hs
  | registerWriteDiscarded a v => exact K.managementWrite a v hs
  | trigREdge =>
    refine Goes.whenRunning (f := fun t => .next (trigR t)) hs (Goes.next ?_)
    unfold trigR
    split
    · exact K.arbitrate (K.regularTrigger hs)
    · exact hs
  | trigUEdge =>
    refine Goes.whenRunning (f := fun t => .next (trigU t)) hs (Goes.next ?_)
    unfold trigU
    split
    · exact K.arbitrate (K.urgentTrigger hs)
    · exact hs
  | paceExpiry => exact Goes.whenRunning (f := fun t => .next (Machine.paceExpires t)) hs (Goes.next (K.paceExpires hs))
  | holdTimerExpiry p =>
    refine Goes.whenRunning (f := fun t => .next (holdExpires p t)) hs (Goes.next ?_)
    unfold holdExpires
    split
    · exact K.breakLock p hs
    · exact hs
  | coldReset c => exact Goes.next (K.coldResetBegins c hs)
  | coldResetEnd z p =>
    show Goes P (execColdResetEnd z p s)
    unfold execColdResetEnd
    split
    · exact Goes.next hs
    · exact Goes.next (K.cold _ _ _ _ _ hs)
  | requesterAccess p c z a d =>
    show Goes P (execRequester p c z a d s)
    unfold execRequester
    refine Goes.whenRunning hs ?_
    split
    · exact Goes.next hs
    · exact Goes.next (K.takeAccess _ _ _ _ _ hs)
  | storeAccessDone e => exact Goes.whenRunning hs (K.storeAccessDone e hs)
  | mergingReadDone e t => exact Goes.whenRunning hs (K.mergingReadDone e t hs)
  | lineCopyReadDone e => exact Goes.whenRunning hs (K.lineCopyReadDone e hs)
  | lineBoundary e => exact Goes.whenRunning hs (K.lineBoundary e.err e.early hs)
  | continuePublish =>
    show Goes P (execContinue s)
    unfold execContinue
    refine Goes.whenRunning hs ?_
    split
    · exact Goes.next hs
    · exact Goes.next (K.takeContinue hs)

theorem tickLock {s : State} (p : PortId) (hs : P s) : P (tickLock p s) := by
  unfold Machine.tickLock
  split
  · exact hs
  · split
    · exact hs
    · split
      · exact K.breakLock p hs
      · exact K.relock _ _ hs ‹_›

theorem tick {s : State} (hs : P s) : P (tick s) := by
  unfold Machine.tick
  split
  · exact hs
  · have h := K.tickLock 3 (K.tickLock 2 (K.tickLock 1 (K.tickLock 0 hs)))
    unfold tickPace
    split
    · exact h
    · split
      · exact K.paceExpires h
      · exact K.engineOnly ⟨rfl, rfl⟩ h

/-- Every step keeps the predicate. -/
theorem step {s : State} (hs : P s) : Goes P (step s) := by
  unfold Machine.step
  split
  · exact Goes.next (K.tick hs)
  · exact K.exec _ (K.outer hs ⟨rfl, rfl, rfl, rfl, rfl, rfl, rfl, rfl⟩)

end Kept

end Sys2Proof.Machine
end

