-- ==== Sys2Proof/Laws/Marks.lean ====
section
/-! SUPPORT. Counting marks: what each change of a slot does to the sum, and what each line-set operation
does to the sizes (R45 to R52). -/

namespace Sys2Proof.Machine

theorem marksHeld_eq_sum (s : State) : s.marksHeld = ∑ i : SlotId, (s.slot i).marks := by
  unfold State.marksHeld
  rw [Fin.sum_univ_def]

theorem marksHeld_congr {s t : State} (h : t.slots = s.slots) : t.marksHeld = s.marksHeld := by
  simp [State.marksHeld, slot_congr h]

/-- Replacing one slot changes the marks held by the difference of that slot. -/
theorem marksHeld_setSlot (i : SlotId) (x : Slot) (s : State) :
    (s.setSlot i x).marksHeld + (s.slot i).marks = s.marksHeld + x.marks := by
  rw [marksHeld_eq_sum, marksHeld_eq_sum,
    ← Finset.add_sum_erase _ _ (Finset.mem_univ i),
    ← Finset.add_sum_erase (a := i) _ (fun j => (s.slot j).marks) (Finset.mem_univ i)]
  have : ∑ j ∈ Finset.univ.erase i, ((s.setSlot i x).slot j).marks =
      ∑ j ∈ Finset.univ.erase i, (s.slot j).marks := by
    refine Finset.sum_congr rfl fun j hj => ?_
    rw [slot_setSlot_other x s (Finset.ne_of_mem_erase hj).symm]
  rw [this, slot_setSlot_same]
  omega

theorem slot_marks_of_win {x : Slot} {w : Window} (h : x.win = some w) : x.marks = w.marks := by
  simp [Slot.marks, h]

/-- Replacing the window of a filled slot. -/
theorem marksHeld_setWindow {i : SlotId} {w : Window} (v : Window) {s : State}
    (h : (s.slot i).win = some w) : (s.setWindow i v).marksHeld + w.marks = s.marksHeld + v.marks := by
  have := marksHeld_setSlot i { s.slot i with win := some v } s
  rw [slot_marks_of_win h] at this
  exact this

theorem marks_paired {w : Window} {p : Paired} (h : w.body = .paired p) :
    w.marks = p.dirty.marks + workMarks p.work + p.carry.marks := by
  simp [Window.marks, h]

/-- Replacing the PAIRED fields of a window. -/
theorem marksHeld_setPaired {s : State} {h : Handle} {w : Window} {p : Paired} (p' : Paired)
    (hp : s.paired? h = some (w, p)) :
    (s.setPaired h.index w p').marksHeld + (p.dirty.marks + workMarks p.work + p.carry.marks) =
      s.marksHeld + (p'.dirty.marks + workMarks p'.work + p'.carry.marks) := by
  obtain ⟨h1, h2⟩ := paired?_eq_some.1 hp
  have := marksHeld_setWindow { w with body := .paired p' } (window?_eq_some.1 h1).2
  rw [marks_paired h2, marks_paired (w := { w with body := .paired p' }) rfl] at this
  exact this

/-- An index not yet in a list adds one to its length (R44). -/
theorem length_insertLine {n : Nat} {l : List Nat} (h : n ∉ l) : (insertLine n l).length = l.length + 1 := by
  induction l with
  | nil => rfl
  | cons m t ih =>
    simp only [List.mem_cons, not_or] at h
    unfold insertLine
    split
    · rfl
    · rw [if_neg h.1, List.length_cons, ih h.2, List.length_cons]

theorem length_insertLine_le (n : Nat) (l : List Nat) : (insertLine n l).length ≤ l.length + 1 := by
  induction l with
  | nil => simp [insertLine]
  | cons m t ih =>
    unfold insertLine
    split
    · simp
    · split
      · simp
      · simp only [List.length_cons]; omega

theorem length_unionLines_le (d w : List Nat) : (unionLines d w).length ≤ d.length + w.length := by
  unfold unionLines
  induction w with
  | nil => simp
  | cons n t ih =>
    have := length_insertLine_le n (t.foldr insertLine d)
    simp only [List.foldr_cons, List.length_cons]
    omega

/-- A union holds no more marks than its parts (R50). -/
theorem marks_union_le (d w : LineSet) : (d.union w).marks ≤ d.marks + w.marks := by
  cases d <;> cases w <;> simp [LineSet.union, LineSet.marks]
  exact length_unionLines_le _ _

/-- A start moves D into W with its marks (R49). -/
theorem marks_take (p : Paired) :
    p.take.dirty.marks + workMarks p.take.work + p.take.carry.marks =
      p.dirty.marks + workMarks p.work + p.carry.marks := by
  unfold Paired.take
  split
  · rfl
  · rename_i h
    simp [h, workMarks, Paired.startWork, LineSet.marks]

end Sys2Proof.Machine
end

