-- ==== Sys2Proof/Laws/Memory.lean ====
section
/-! SUPPORT. The store: its operations keep the canonical form, and what a byte reads as after a write. -/

namespace Sys2Proof.Machine

theorem Memory.wfFrom_mono {m : List Host.Cell} {a b : Nat} (h : Memory.wfFrom b m = true) (hab : a ≤ b) :
    Memory.wfFrom a m = true := by
  cases m with
  | nil => rfl
  | cons c t =>
    simp only [Memory.wfFrom, Bool.and_eq_true, decide_eq_true_eq] at h ⊢
    exact ⟨⟨by omega, h.1.2⟩, h.2⟩

/-- A byte below every listed address reads as unwritten. -/
theorem Memory.byte_below {m : List Host.Cell} {b x : Nat} (h : Memory.wfFrom b m = true) (hx : x < b) :
    Memory.byte m x = Config.unwrittenByte := by
  induction m generalizing b with
  | nil => rfl
  | cons c t ih =>
    obtain ⟨k, v⟩ := c
    simp only [Memory.wfFrom, Bool.and_eq_true, decide_eq_true_eq] at h
    simp only [Memory.byte]
    rw [if_neg (by omega)]
    exact ih h.2 (by omega)

theorem Memory.wfFrom_set {m : List Host.Cell} {b a : Nat} {v : Byte} (h : Memory.wfFrom b m = true)
    (hb : b ≤ a) : Memory.wfFrom b (Memory.set m a v) = true := by
  induction m generalizing b with
  | nil => simp only [Memory.set]; split <;> simp_all [Memory.wfFrom]
  | cons c t ih =>
    obtain ⟨k, x⟩ := c
    simp only [Memory.wfFrom, Bool.and_eq_true, decide_eq_true_eq] at h
    simp only [Memory.set]
    split
    · split
      · simp [Memory.wfFrom, h]
      · rename_i h1 h2
        simp only [Memory.wfFrom, Bool.and_eq_true, decide_eq_true_eq]
        exact ⟨⟨hb, by simpa using h2⟩, ⟨by omega, h.1.2⟩, h.2⟩
    · split
      · split
        · exact Memory.wfFrom_mono h.2 (by omega)
        · rename_i h1 h2 h3
          simp only [Memory.wfFrom, Bool.and_eq_true, decide_eq_true_eq]
          exact ⟨⟨hb, by simpa using h3⟩, by subst h2; exact h.2⟩
      · simp only [Memory.wfFrom, Bool.and_eq_true, decide_eq_true_eq]
        exact ⟨h.1, ih h.2 (by omega)⟩

/-- Writing one byte keeps the canonical form. -/
theorem Memory.wf_set {m : List Host.Cell} {a : Nat} {v : Byte} (h : Memory.wf m = true) :
    Memory.wf (Memory.set m a v) = true := Memory.wfFrom_set h (Nat.zero_le a)

/-- Writing a run of bytes keeps the canonical form. -/
theorem Memory.wf_write {m : List Host.Cell} (bs : List Byte) (a : Nat) (h : Memory.wf m = true) :
    Memory.wf (Memory.write m a bs) = true := by
  induction bs generalizing m a with
  | nil => exact h
  | cons b bs ih => exact ih (a + 1) (Memory.wf_set h)

theorem Memory.byte_set_from {m : List Host.Cell} {b a : Nat} {v : Byte} (h : Memory.wfFrom b m = true)
    (x : Nat) : Memory.byte (Memory.set m a v) x = if x = a then v else Memory.byte m x := by
  induction m generalizing b with
  | nil =>
    simp only [Memory.set, Memory.byte]
    by_cases hv : v = Config.unwrittenByte
    · simp [hv, Memory.byte]
    · simp only [hv, if_false, Memory.byte, eq_comm (a := a)]
  | cons c t ih =>
    obtain ⟨k, y⟩ := c
    simp only [Memory.wfFrom, Bool.and_eq_true, decide_eq_true_eq] at h
    simp only [Memory.set]
    split
    · rename_i hak
      by_cases hv : v = Config.unwrittenByte
      · simp only [hv, if_true, Memory.byte]
        by_cases hx : x = a
        · rw [if_pos hx, if_neg (by omega), Memory.byte_below h.2 (by omega)]
        · rw [if_neg hx]
      · simp only [hv, if_false, Memory.byte, eq_comm (a := a)]
    · split
      · rename_i hak hk
        subst hk
        by_cases hv : v = Config.unwrittenByte
        · simp only [hv, if_true, Memory.byte]
          by_cases hx : x = a
          · rw [if_pos hx, Memory.byte_below h.2 (by omega)]
          · rw [if_neg hx, if_neg (by omega)]
        · simp only [hv, if_false, Memory.byte, eq_comm (a := a)]
          split <;> rfl
      · rename_i hak hk
        simp only [Memory.byte, ih h.2]
        by_cases hx : x = a
        · simp only [hx, if_true]; rw [if_neg (by omega)]
        · simp only [hx, if_false]

/-- The byte written reads as written, and every other byte as before. -/
theorem Memory.byte_set {m : List Host.Cell} {a : Nat} {v : Byte} (h : Memory.wf m = true) (x : Nat) :
    Memory.byte (Memory.set m a v) x = if x = a then v else Memory.byte m x :=
  Memory.byte_set_from h x

/-- Outside a run of bytes written, every byte reads as before. -/
theorem Memory.byte_write_outside {m : List Host.Cell} (bs : List Byte) (a x : Nat)
    (h : Memory.wf m = true) (hx : x < a ∨ a + bs.length ≤ x) :
    Memory.byte (Memory.write m a bs) x = Memory.byte m x := by
  induction bs generalizing m a with
  | nil => rfl
  | cons b bs ih =>
    simp only [List.length_cons] at hx
    rw [Memory.write, ih (a + 1) (Memory.wf_set h) (by omega), Memory.byte_set h, if_neg (by omega)]

/-- A run of bytes written reads back. -/
theorem Memory.byte_write_inside {m : List Host.Cell} (bs : List Byte) (a k : Nat)
    (h : Memory.wf m = true) (hk : k < bs.length) :
    Memory.byte (Memory.write m a bs) (a + k) = bs[k] := by
  induction bs generalizing m a k with
  | nil => simp at hk
  | cons b bs ih =>
    cases k with
    | zero =>
      rw [Memory.write, Memory.byte_write_outside bs (a + 1) _ (Memory.wf_set h) (by omega),
        Memory.byte_set h]
      simp
    | succ k =>
      have := ih (m := Memory.set m a b) (a + 1) k (Memory.wf_set h) (by simpa using hk)
      rw [Memory.write, show a + (k + 1) = a + 1 + k by omega, this]
      simp

@[simp] theorem Memory.length_read (m : List Host.Cell) (a n : Nat) : (Memory.read m a n).length = n := by
  induction n generalizing a with
  | zero => rfl
  | succ n ih => simp [Memory.read, ih]

@[simp] theorem length_unstatedBytes (k a n : Nat) : (unstatedBytes k a n).length = n := by
  induction n generalizing a with
  | zero => rfl
  | succ n ih => simp [unstatedBytes, ih]

@[simp] theorem length_natToBytes (v n : Nat) : (natToBytes v n).length = n := by
  induction n generalizing v with
  | zero => rfl
  | succ n ih => simp [natToBytes, ih]

/-- A read of a run of bytes just written returns them. -/
theorem Memory.read_write {m : List Host.Cell} (bs : List Byte) (a : Nat) (h : Memory.wf m = true) :
    Memory.read (Memory.write m a bs) a bs.length = bs := by
  have key : ∀ (n k : Nat), k + n = bs.length →
      Memory.read (Memory.write m a bs) (a + k) n = bs.drop k := by
    intro n
    induction n with
    | zero => intro k hk; rw [List.drop_eq_nil_of_le (by omega)]; rfl
    | succ n ih =>
      intro k hk
      have hk' : k < bs.length := by omega
      rw [Memory.read, Memory.byte_write_inside bs a k h hk', Nat.add_assoc, ih (k + 1) (by omega),
        List.getElem_cons_drop hk']
  exact key bs.length 0 (by omega)

end Sys2Proof.Machine
end

