-- ==== Sys2Proof/WellFormed.lean ====
section
/-! DEFINITION. Which commands are well formed: the rows whose name says which words they stand for. -/

namespace Sys2Proof

/-- A command is well formed when it is of the row it stands for: UNKNOWN_COMMAND's code names no
command (R165), and REGISTER_WRITE_DISCARDED's address is that of a read-only or unused word (R177).
exec is total on ill-formed ones too: it takes the write by its word and its address (log 5). -/
def Instr.wellFormed : Instr → Bool
  | .unknownCommand w => !codeNamesCommand (cmdCode w)
  | .registerWriteDiscarded a _ => !offsetWritable (windowOffset a)
  | .openWindow _ | .openView _ | .modify _ | .retire _ | .query _ | .lookup _ | .group _
  | .collect _ | .guardSet _ | .unguard _ | .guardq _ | .seq _ | .useq _ | .engset _ | .start _
  | .urgent _ | .stop _ | .breakOne _ | .setLimit _ | .port _ | .restart _
  | .commandWordIgnored _ | .operandWrite _ _ | .eventClear _ | .eventEnableWrite _
  | .faultClear _ | .trigREdge | .trigUEdge | .paceExpiry | .holdTimerExpiry _ | .coldReset _
  | .coldResetEnd _ _ | .requesterAccess _ _ _ _ _ | .storeAccessDone _ | .mergingReadDone _ _
  | .lineCopyReadDone _ | .lineBoundary _ | .continuePublish => true

end Sys2Proof
end

