-- ==== Sys2Proof/Tests/Slice0.lean ====
section
/-! SUPPORT. Tests: the checks of WellFormed, one step on a small state for each family of commands, and for
every statement with hypotheses a state and operands that meet them. -/

namespace Sys2Proof.Tests

open Sys2Proof.Machine

set_option Elab.async false

/-! ### Small states -/

/-- Operand words from OPR0 up. -/
def withOperands (l : List Word) (s : State) : State :=
  { s with cmd := { s.cmd with operands := resultWords l } }

/-- A window of one page at requester address 0x1000 times its slot, open to every port. -/
def openIn (i : SlotId) (b : Body) (s : State) : State :=
  fillSlot i { base := BitVec.ofNat 32 (0x1000 * (i.val + 1)), pages := 1, lineSize := .b256,
               readMask := 15, writeMask := 15, group := 0, body := b } s

/-- The handle of the first filling of a slot. -/
def first (i : SlotId) : Handle := { index := i, inst := 1 }

/-- A PAIRED window's fields: live at 0, bank A at 0x1000, bank B at 0x2000, one line in D. -/
def pair : Paired :=
  { live := 0, bankA := 0x1000, bankB := 0x2000, current := .a, gen := 1, dirty := .lines [15],
    work := none, carry := .lines [3], views := 0, drain := none }

/-- The fields with W taken and its one line, the last of the window, being copied. -/
def copying : Paired := { pair with dirty := .lines [2], work := some { set := .lines [15], pos := 15 } }

/-- A part with a PAIRED window in slot 0. -/
def paired (p : Paired) : State := openIn 0 (.paired p) .reset

/-- The window in slot 0 of `paired p`. -/
def window0 (p : Paired) : Window :=
  { base := 0x1000, pages := 1, lineSize := .b256, readMask := 15, writeMask := 15, group := 0,
    body := .paired p }

/-- A part with a TRACKED window in slot 0. -/
def tracked (d : LineSet) : State := openIn 0 (.tracked 0x3000 d) .reset

/-- The publish record of the window in slot 0. -/
def rec0 : PublishRecord := { handle := first 0, idle := .b, abandons := [], suspend := false }

/-- A SINGLE pass over the window in slot 0, its last entry, with the unit in the given state and the store
port its own. -/
def passing (st : EngineState) (u : PubUnit) (s : State) : State :=
  { s with
    grant := some .engine, pubUnit := u,
    engine := { s.engine with
      state := st, regularSeq := [first 0], run := some { pos := 0, remaining := none },
      working := some { number := 1, published := 0, skipped := 0, vacant := 0, copied := false },
      purpose := some .regular } }

/-- A port's lock on the window in slot 0. -/
def lockedBy (p : PortId) (ph : LockPhase) (t : Option HoldTimer) (s : State) : State :=
  s.setLock p (some { window := first 0, phase := ph, timer := t })

/-- A guard of the window in slot 0. -/
def guard0 (off : Nat) (act : GuardAction) : Guard :=
  { window := first 0, offset := off, low := 2, high := 5, sign := .unsigned, action := act, mask := 15,
    trip := none }

/-- An access to the window in slot 0 at an offset. -/
def access0 (c : AccessClass) (z : AccessSize) (off : Nat) (d : BitVec 64) (b : Body) : Access :=
  newAccess c z (BitVec.ofNat 32 (0x1000 + off)) d (first 0)
    { base := 0x1000, pages := 1, lineSize := .b256, readMask := 15, writeMask := 15, group := 0, body := b }

/-- A port's access at a stage, past its grant. -/
def serving (p : PortId) (a : Access) (st : Stage) (s : State) : State :=
  { s.setPort p { s.port p with access := some { acc := a, stage := st } } with grant := some (.port p) }

/-- What a command leaves, if it answers a next state. -/
def after (c : Instr) (s : State) : Option State :=
  match exec c s with
  | .next t => some t
  | .fault _ => none
  | .refused _ => none

/-- The completion code that a command leaves. -/
def codeAfter (c : Instr) (s : State) : Option Status := (after c s).map fun t => t.cmd.status

/-! ### WellFormed -/

theorem test_unknown_command_refused : (Instr.unknownCommand 0x00000105).wellFormed = false := by decide

theorem test_unknown_command_accepted : (Instr.unknownCommand 0x00000109).wellFormed = true := by decide

theorem test_discarded_write_refused :
    (Instr.registerWriteDiscarded 0x1010 0).wellFormed = false ∧
      (Instr.registerWriteDiscarded 0x5C 0).wellFormed = false := by decide

theorem test_discarded_write_accepted :
    (Instr.registerWriteDiscarded 0x00C 0).wellFormed = true ∧
      (Instr.registerWriteDiscarded 0x130 0).wellFormed = true := by decide

/-! ### One step -/

theorem test_step_opens :
    codeAfter (.openWindow 0)
        (withOperands [0, 0x000F0F03, 0x1000, 0x01000001, 0, 0x1000, 0x2000] .reset) = some .done := by
  decide +kernel

theorem test_open_below_4gib :
    codeAfter (.openWindow 0)
        (withOperands [0, 0x000F0F01, 0xFFFFF000, 0x00400001, 0] .reset) = some .done ∧
      codeAfter (.openWindow 0)
        (withOperands [0, 0x000F0F01, 0xFFFFF000, 0x00400002, 0] .reset) = some .badOperand := by
  decide +kernel

theorem test_view_of_unpublished_refused_at_access :
    ((after (.requesterAccess 2 .read .four 0x2000 0)
        (openIn 1 (.view (first 0)) (paired { pair with gen := 0, views := 1 }))).bind
          fun t => (t.port 2).response) = some { code := .unpublished, bytes := [0, 0, 0, 0] } := by
  decide +kernel

theorem test_collect_packs_indices :
    ((after (.collect 0) (withOperands [0x0100] (tracked (.lines [3, 16383])))).map
        fun t => (t.cmd.results[0], t.cmd.results[1])) = some (0x2#32, 0x0FFFC003#32) := by
  decide +kernel

theorem test_start_copies_the_lowest_line :
    ((after (.start 0) { paired pair with
        engine := { (paired pair).engine with regularSeq := [first 0] } }).map
          fun t => (t.pubUnit, t.grant, t.cmd.status)) =
      some (.reading rec0 3, some .engine, .done) := by
  decide +kernel

theorem test_restart_keeps_an_active_window :
    ((after (.restart 0) (paired pair)).map fun t => (t.free, (t.paired? (first 0)).map Prod.snd)) =
      some (8192, some { pair with dirty := .whole, carry := .whole }) := by
  decide +kernel

theorem test_guard_refuses_a_word :
    ((after (.requesterAccess 0 .write .four 0x1004 1)
        ((tracked (.lines [])).setGuard 0 (some (guard0 4 .refuse)))).bind fun t => (t.port 0).response) =
      some { code := .guard, bytes := [] } := by
  decide +kernel

theorem test_write_marks_its_line :
    (((after (.requesterAccess 0 .write .two 0x1103 0xBEEF) (tracked (.lines []))).bind
        (after (.storeAccessDone false))).map
          fun t => (Memory.read t.store 0x3100 4, (t.slot 0).win.bind Window.dirty?)) =
      some ([0, 0, 0xEF, 0xBE], some (.lines [1])) := by
  decide +kernel

theorem test_plain_write_of_a_lookup_marks_nothing :
    (after (.storeAccessDone false) (serving 0 (access0 .write .one 0x100 7 (.plain 0x3000))
        (.storing (some 0x3100)) (tracked (.lines [])))).map
          (fun t => (Memory.read t.store 0x3100 1, (t.slot 0).win.bind Window.dirty?)) =
      some ([7], some (.lines [])) := by
  decide +kernel

/-! ### The hypotheses of the statements are met -/

theorem test_met_front : (({ State.reset with pending := [.trigREdge] } : State).pending = .trigREdge :: []) := rfl

/-- A lock whose timer has a given state, on a part with no pace timer. -/
def timed (t : Option HoldTimer) : State := lockedBy 0 .heldByPort t (paired pair)

/-- A part whose pace timer has a given time left. -/
def paced (n : Nat) : State := { State.reset with engine := { State.reset.engine with paceTimer := some n } }

theorem test_met_microsecond :
    (timed (some (.running 1))).pending = [] ∧ (timed (some (.running 1))).inReset = none ∧
      (timed (some (.running 1))).engine.paceTimer = none ∧
      (timed (some (.running 1))).lock 0 =
        some { window := first 0, phase := .heldByPort, timer := some (.running 1) } ∧
      (∀ p, (paced 1).lock p = none) ∧ (paced 1).pending = [] ∧ (paced 1).engine.paceTimer = some 1 ∧
      (∀ p, (paced 2).lock p = none) ∧ (paced 2).engine.paceTimer = some 2 := by decide +kernel

theorem test_met_held_in_reset :
    ({ State.reset with inReset := some .pin } : State).inReset ≠ none ∧
      isResetRow (.storeAccessDone false) = false ∧ State.reset.grant = none := by decide

theorem test_met_cold_end :
    ({ State.reset with inReset := some .pin } : State).inReset = some .pin ∧
      ({ State.reset with inReset := some .powerOn } : State).inReset = some .powerOn := by decide

theorem test_met_accepts : State.reset.accepts ∧ State.reset.inReset = none ∧ State.reset.pubUnit = .ready :=
  ⟨⟨rfl, rfl⟩, rfl, rfl⟩

/-- A part that a restart left with a line copy in flight. -/
def orphaned (u : PubUnit) : State := { State.reset with grant := some .engine, pubUnit := u }

theorem test_met_restart_copy :
    (passing .run (.reading rec0 15) (paired copying)).accepts ∧
      (passing .run (.reading rec0 15) (paired copying)).paired? rec0.handle =
        some ({ base := 0x1000, pages := 1, lineSize := .b256, readMask := 15, writeMask := 15, group := 0,
                body := .paired copying }, copying) ∧
      (passing .run (.writing rec0 15 [7]) (paired copying)).accepts ∧
      (orphaned (.orphanReading 67108608 0 256)).inStore 67108608 256 = true ∧
      (orphaned (.orphanWriting 67108608 (List.replicate 256 1))).inStore 67108608 256 = true :=
  ⟨⟨rfl, rfl⟩, by decide +kernel, ⟨rfl, rfl⟩, by decide +kernel, by decide +kernel⟩

theorem test_met_quiet : (orphaned (.orphanWriting 0 [1])).quiet ∧ State.reset.quiet :=
  ⟨⟨rfl, rfl, rfl, rfl, rfl, rfl, rfl⟩, ⟨rfl, rfl, rfl, rfl, rfl, rfl, rfl⟩⟩

theorem test_met_words :
    isCommandWordRow (.commandWordIgnored 0x20) = true ∧
      ({ State.reset with cmd := { State.reset.cmd with busy := true } } : State).cmd.busy = true ∧
      codeNamesCommand (cmdCode 0x00) = false ∧ codeNamesCommand (cmdCode 0x09) = false ∧
      codeNamesCommand (cmdCode 0xFF) = false := by decide

theorem test_met_discarded :
    offsetWritable (windowOffset 0x00C) = false ∧ offsetWritable (windowOffset 0x058) = false ∧
      offsetWritable (windowOffset 0x1FC) = false ∧ windowOffset 0x108 = 0x008 ∧
      windowOffset 0x05C = 0x05C ∧ 0x08C ≤ windowOffset 0x08C ∧ 0x08C ≤ windowOffset 0x0FF := by decide

/-- OPR0 and OPR1 as given. -/
def two (a b : Word) : State := withOperands [a, b] .reset

theorem test_met_group :
    flaggedGroup (field (opr (two 3 1) 0) 0 8) = some 3 ∧ settingOf (field (opr (two 3 1) 1) 0 2) = some true ∧
      (field (opr (two 0 1) 0) 0 8).toNat = 0 ∧ 3 < (field (opr (two 4 1) 0) 0 8).toNat ∧
      field (opr (two 1 0) 1) 0 2 = 0 ∧ field (opr (two 1 3) 1) 0 2 = 3 := by decide +kernel

/-! #### Window commands -/

/-- OPEN's operands for a PAIRED window of one page, in a group, at a base and with its regions from a store
offset up. -/
def opening (group base off : Word) (s : State) : State :=
  withOperands [0, 0x000F0F03 ||| group <<< 4, base, 0x01000001, off, off + 0x1000, off + 0x2000] s

/-- The window that OPEN's operands describe. -/
def opened (group : Fin 4) (base off : Word) : Window :=
  { base := base, pages := 1, lineSize := .b256, readMask := 15, writeMask := 15, group := group,
    body := .paired { live := off, bankA := off + 0x1000, bankB := off + 0x2000, current := .a, gen := 0,
                      dirty := .whole, work := none, carry := .whole, views := 0, drain := none } }

/-- Every slot filled. -/
def full : State :=
  { State.reset with slots := Vector.replicate 32 { inst := 1, win := some (opened 0 0 0) } }

theorem test_met_open_space :
    (∀ i, (full.slot i).win ≠ none) ∧ (State.reset.slot 0).win = none ∧ openOperands .reset = none ∧
      ((paired pair).slot 1).win = none ∧ (∀ j, j < 1 → ((paired pair).slot j).win ≠ none) := by
  decide +kernel

/-- The one window of `paired pair` is that of slot 0. -/
theorem only_window0 (j : SlotId) (v : Window) (h : ((paired pair).slot j).win = some v) : v = window0 pair := by
  have : ∀ j, ((paired pair).slot j).win = none ∨ ((paired pair).slot j).win = some (window0 pair) := by
    decide +kernel
  rcases this j with h1 | h1 <;> rw [h1] at h <;> cases h
  rfl

theorem test_met_open_checks :
    openOperands (opening 1 0 0 .reset) = some (opened 1 0 0) ∧
      (opening 1 0 0 .reset).groups.isOpen 1 = false ∧
      openOperands (opening 0 0x1000 0x3000 (paired pair)) = some (opened 0 0x1000 0x3000) ∧
      (∃ j v, ((paired pair).slot j).win = some v ∧ rangesMeet (opened 0 0x1000 0x3000) v = true) :=
  ⟨by decide +kernel, by decide +kernel, by decide +kernel, 0, window0 pair, by decide +kernel,
    by decide +kernel⟩

theorem test_met_open_store :
    (∀ j v, ((paired pair).slot j).win = some v → rangesMeet (opened 0 0x2000 0) v = false) ∧
      (∃ j v, ((paired pair).slot j).win = some v ∧ regionsMeet (opened 0 0x2000 0) v = true) ∧
      (∃ a ∈ (opened 0 0x2000 0x3FFE000).regions, State.reset.inStore a 4096 = false) := by
  refine ⟨?_, ⟨0, window0 pair, by decide +kernel, by decide +kernel⟩, by decide +kernel⟩
  intro j v h
  rw [only_window0 j v h]
  decide +kernel

theorem test_met_open_passes :
    (∀ a ∈ (opened 0 0x2000 0x3FFD000).regions, State.reset.inStore a 4096 = true) ∧
      regionsDisjoint 4096 (opened 0 0x2000 0x3FFD000).regions = true ∧
      (∀ j v, ((paired pair).slot j).win = some v → regionsMeet (opened 0 0x2000 0x3FFD000) v = false) := by
  refine ⟨by decide +kernel, by decide +kernel, ?_⟩
  intro j v h
  rw [only_window0 j v h]
  decide +kernel

/-- VIEW's operands: source, read mask 15, group, base. -/
def viewing (src : BitVec 16) (group base : Word) (s : State) : State :=
  withOperands [src.setWidth 32, 0x0F00 ||| group <<< 4, base] s

theorem test_met_view :
    viewOperands (viewing 0x0100 0 0x801 .reset) = none ∧
      viewOperands (viewing 0x0100 0 0x2000 (paired pair)) = some (15, 0) ∧
      oprWindow (viewing 0x0120 0 0x2000 (paired pair)) = none ∧
      (oprWindow (viewing 0x0100 0 0x2000 (paired pair))).map Prod.fst = some (first 0) ∧
      (oprWindow (viewing 0x0100 0 0x2000 (paired { pair with drain := some 0 }))).map
        (fun x => x.2.draining) = some true ∧
      (oprWindow (viewing 0x0100 0 0x2000 (tracked .whole))).map (fun x => x.2.kind) = some .tracked ∧
      rangeAllowed 0xFFFFF000 1 = true ∧ rangeAllowed 0xFFFFF000 2 = false ∧
      (viewing 0x0100 3 0x2000 (paired pair)).groups.isOpen 3 = false := by decide +kernel

theorem test_met_view_ranges :
    (∃ j v, ((paired pair).slot j).win = some v ∧
        rangesMeet (viewWindow 0x1000 15 0 (first 0) (window0 pair)) v = true) ∧
      (∀ j v, ((paired pair).slot j).win = some v →
        rangesMeet (viewWindow 0x2000 15 0 (first 0) (window0 pair)) v = false) := by
  refine ⟨⟨0, window0 pair, by decide +kernel, by decide +kernel⟩, ?_⟩
  intro j v h
  rw [only_window0 j v h]
  decide +kernel

/-- MODIFY's operands for the window in slot 0: a rights word. -/
def modifying (rights : Word) (s : State) : State := withOperands [0x0100, rights] s

theorem test_met_modify :
    oprWindow (modifying 0 .reset) = none ∧
      oprWindow (modifying 0x000F0F10 (paired pair)) = some (first 0, window0 pair) ∧
      modifyOperands (modifying 0x00100000 (paired pair)) (window0 pair) = none ∧
      modifyOperands (modifying 0x000F0F10 (paired pair)) (window0 pair) = some (15, 15, 1) ∧
      modifyOperands (modifying 0x000E0F00 (paired pair)) (window0 pair) = some (15, 14, 0) ∧
      (timed none).lockHolder (first 0) = some 0 ∧ inMask 14 0 = false ∧ inMask 15 0 = true ∧
      (window0 { pair with drain := some 0 }).draining = true ∧ (window0 pair).draining = false ∧
      (paired pair).groups.isOpen 0 = true ∧ (paired pair).groups.isOpen 1 = false := by decide +kernel

/-- RETIRE's operands for the window in slot 0. -/
def retiring (flush : Word) (s : State) : State := withOperands [0x0100, flush] s

theorem test_met_retire :
    (retiring 0 (paired pair)).accepts ∧ oprWindow (retiring 0 .reset) = none ∧
      oprWindow (retiring 0 (paired pair)) = some (first 0, window0 pair) ∧
      (retiring 0 (timed none)).isLocked (first 0) = true ∧
      (retiring 0 (paired pair)).isLocked (first 0) = false ∧
      (retiring 0 (openIn 0 (.paired pair) { State.reset with
        groups := { g1 := true, g2 := false, g3 := false } })).groups.isOpen 2 = false ∧
      bitAt (opr (retiring 1 (paired { pair with drain := some 0 })) 1) 0 = true ∧
      bitAt (opr (retiring 0 (paired pair)) 1) 0 = false ∧
      (oprWindow (retiring 0 (tracked .whole))).map (fun x => x.2.kind) = some .tracked ∧
      (retiring 0 (paired pair)).pubUnit.handle? ≠ some (first 0) :=
  ⟨⟨rfl, rfl⟩, by decide +kernel, by decide +kernel, by decide +kernel, by decide +kernel, by decide +kernel,
    by decide +kernel, by decide +kernel, by decide +kernel, by decide +kernel⟩

theorem test_met_freeing :
    (paired { pair with views := 1 }).window? (first 0) = some (window0 { pair with views := 1 }) ∧
      ((openIn 1 (.view (first 0)) (paired { pair with views := 1 })).window? (first 1)).map Window.body =
        some (.view (first 0)) ∧
      (openIn 1 (.view (first 0)) (paired { pair with views := 1 })).paired? (first 0) =
        some (window0 { pair with views := 1 }, { pair with views := 1 }) := by decide +kernel

theorem test_met_retire_waits :
    (retiring 0 (passing .run (.reading rec0 15) (paired copying))).accepts ∧
      oprWindow (retiring 0 (passing .run (.reading rec0 15) (paired copying))) =
        some (first 0, window0 copying) ∧ copying.views = 0 ∧
      (retiring 0 (passing .run (.writing rec0 15 [7]) (paired copying))).isLocked (first 0) = false ∧
      rec0.handle = first 0 :=
  ⟨⟨rfl, rfl⟩, by decide +kernel, rfl, by decide +kernel, rfl⟩

/-- A PAIRED window with nothing left to publish. -/
def clean : Paired := { pair with dirty := .lines [] }

theorem test_met_drain :
    (retiring 1 (paired clean)).accepts ∧ (retiring 1 (paired clean)).quiet ∧
      oprWindow (retiring 1 (paired clean)) = some (first 0, window0 clean) ∧ clean.drain = none ∧
      clean.work = none ∧ (retiring 1 (paired clean)).isLocked (first 0) = false ∧
      (∀ q, (retiring 1 (paired clean)).waitingAccess q = none) ∧
      (retiring 1 (passing .run (.reading rec0 15) (paired clean))).engine.state ≠ .idle :=
  ⟨⟨rfl, rfl⟩, ⟨rfl, rfl, rfl, rfl, rfl, rfl, rfl⟩, by decide +kernel, rfl, rfl, by decide +kernel,
    by decide +kernel, by decide +kernel⟩

theorem test_met_query_lookup :
    oprWindow (retiring 0 .reset) = none ∧
      oprWindow (retiring 0 (paired pair)) = some (first 0, window0 pair) ∧
      (oprWindow (retiring 0 (tracked (.lines [1])))).map (fun x => x.2.body) =
        some (.tracked 0x3000 (.lines [1])) ∧
      3 < (field (opr (two 4 0) 0) 0 8).toNat ∧ portOf (field (opr (two 3 0) 0) 0 8) = some 3 ∧
      (∀ i w, ((two 3 0x1000).slot i).win = some w → w.covers 0x1000 = false) ∧
      (withOperands [3, 0x1FFF] (paired pair)).windowAt 0x1FFF = some (0, window0 pair) := by
  refine ⟨by decide +kernel, by decide +kernel, by decide +kernel, by decide +kernel, by decide +kernel, ?_,
    by decide +kernel⟩
  intro i w h
  have : ∀ i, ((two 3 0x1000).slot i).win = none := by decide +kernel
  rw [this i] at h; cases h

theorem test_met_collect :
    oprWindow (retiring 0 .reset) = none ∧
      (oprWindow (retiring 0 (tracked .whole))).map (fun x => x.2.body) = some (.tracked 0x3000 .whole) ∧
      (oprWindow (retiring 0 (tracked (.lines (List.range 17))))).map (fun x => x.2.body) =
        some (.tracked 0x3000 (.lines (List.range 17))) ∧
      (window0 pair).kind ≠ .tracked := by decide +kernel

/-! #### Guards -/

/-- GUARD's operands for a window: offset, low 2, high 5, UNSIGNED REFUSE with every port. -/
def guarding (h off : Word) (s : State) : State := withOperands [h, off, 2, 5, 0x0F11] s

/-- A guard table of which every record is SET. -/
def guarded : State :=
  { paired pair with guards := Vector.replicate 16 (some (guard0 8 .report)) }

theorem test_met_guard :
    oprWindow (guarding 0x0100 4 .reset) = none ∧
      oprWindow (guarding 0x0100 0xFFC (paired pair)) = some (first 0, window0 pair) ∧
      guardOperands (guarding 0x0100 0xFFC (paired pair)) (first 0) (window0 pair) =
        some (guard0 0xFFC .refuse) ∧
      guardOperands (guarding 0x0100 0x1000 (paired pair)) (first 0) (window0 pair) = none ∧
      (oprWindow (guarding 0x0101 4 (openIn 1 (.view (first 0)) (paired pair)))).map (fun x => x.2.kind) =
        some .view ∧
      guarded.guard 15 = some (guard0 8 .report) ∧ (∀ i, guarded.guard i ≠ none) ∧
      (∀ i k, guarded.guard i = some k → ¬(k.window = first 0 ∧ k.offset = 0xFFC)) ∧
      (paired pair).guard 0 = none := by
  refine ⟨by decide +kernel, by decide +kernel, by decide +kernel, by decide +kernel, by decide +kernel,
    by decide +kernel, by decide +kernel, ?_, by decide +kernel⟩
  intro i k h
  have : ∀ i, guarded.guard i = some (guard0 8 .report) := by decide +kernel
  rw [this i] at h; cases h; decide

theorem test_met_unguard :
    15 < (field (opr (two 16 0) 0) 0 8).toNat ∧ guardOf (field (opr (two 15 0) 0) 0 8) = some 15 ∧
      (two 15 0).guard 15 = none ∧ guarded.guard 15 = some (guard0 8 .report) ∧
      guarded.window? (first 0) = some (window0 pair) ∧ guarded.groups.isOpen 0 = true ∧
      guarded.groups.isOpen 3 = false := by decide +kernel

/-! #### The engine -/

/-- SEQ's and USEQ's operands: the window in slot 0 twice, and an index above 31. -/
def listing (s : State) : State := withOperands [0x01000100, 0x00000120] s

theorem test_met_lists :
    (listing .reset).accepts ∧ oprEntries (listing .reset) 2 = some [first 0, first 0] ∧
      oprEntries (listing .reset) 3 = none ∧ 16 < (17 : BitVec 8).toNat ∧ 4 < (5 : BitVec 8).toNat ∧
      (listing .reset).engine.purpose ≠ some .regular ∧
      (listing (passing .run (.reading rec0 15) (paired copying))).engine.purpose = some .regular ∧
      (listing (passing .run (.reading rec0 15) (paired copying))).engine.context = none :=
  ⟨⟨rfl, rfl⟩, by decide +kernel, by decide +kernel, by decide, by decide, by decide +kernel, by decide +kernel,
    by decide +kernel⟩

/-- A STEPPED pass between two sub-runs. -/
def between : State :=
  { State.reset with engine := { State.reset.engine with
      config := { EngineConfig.cold with mode := .stepped }, cursor := 1,
      working := some { number := 1, published := 1, skipped := 0, vacant := 0, copied := true } } }

theorem test_met_seq_between :
    (listing between).accepts ∧ (listing between).engine.run = none ∧ (listing between).engine.purpose = none ∧
      (listing between).engine.working.isSome = true ∧ 0 < between.engine.cursor :=
  ⟨⟨rfl, rfl⟩, rfl, rfl, rfl, by decide⟩

/-- ENGSET's operands: mode and step, pace period, thresholds. -/
def setting (a b c : Word) : State := withOperands [a, b, c] .reset

theorem test_met_engset :
    modeOf (field (opr (setting 0x181 0x1 0x10000000) 0) 0 2) = some .single ∧
      (field (opr (setting 0x181 0x1 0x10000000) 0) 4 4).toNat = 8 ∧
      (field (opr (setting 0x181 0x1 0x20001FFF) 2) 0 14).toNat = 8191 ∧
      (field (opr (setting 0x181 0x1 0x20001FFF) 2) 16 14).toNat = 8192 ∧
      (field (opr (setting 0x091 0x1 0) 0) 4 4).toNat = 9 ∧ field (opr (setting 0x10 0x1 0) 0) 0 2 = 0 ∧
      field (opr (setting 0x11 0 0) 1) 0 16 = 0 ∧ field (opr (setting 0x11 1 0) 2) 16 14 = 0 ∧
      modeOf (field (opr (setting 0x113 0x1 0x10000) 0) 0 2) = some .stepped ∧
      bitAt (opr (setting 0x113 0x1 0x10000) 0) 8 = true ∧
      (setting 0 0 0).engine.state = .idle ∧ 0 < between.engine.cursor := by decide +kernel

/-- The engine of a part with both trigger inputs enabled, the pace timer running and one entry in each
list. -/
def armed (st : EngineState) (p : Paired) : State :=
  { paired p with engine := { Engine.cold with
      state := st, regularSeq := [first 0], urgentList := [first 0], paceTimer := some 100,
      config := { EngineConfig.cold with trigREnable := true, trigUEnable := true } } }

theorem test_met_triggers :
    (armed .stopping pair).engine.state = .stopping ∧ (armed .urgent pair).engine.run = none ∧
      (armed .drain pair).engine.regularPending = false ∧ (armed .held pair).engine.paceTimer ≠ none ∧
      (armed .run pair).engine.config.trigREnable = true ∧ (armed .run pair).inReset = none ∧
      (armed .drain pair).engine.config.autoUrgent = false ∧
      (armed .drain pair).engine.config.trigUEnable = true ∧
      State.reset.engine.config.trigREnable = false ∧ State.reset.engine.paceTimer = none ∧
      State.reset.engine.config.trigUEnable = false := by decide +kernel

theorem test_met_start :
    (armed .idle pair).quiet ∧ (armed .idle pair).accepts ∧ (armed .idle pair).pubUnit = .ready ∧
      (armed .idle pair).engine.config.mode ≠ .stepped ∧
      (armed .idle pair).paired? (first 0) = some (window0 pair, pair) ∧
      (armed .idle pair).isLocked (first 0) = false ∧ nextCopyLine (window0 pair) pair.take = some 3 :=
  ⟨⟨rfl, rfl, rfl, rfl, rfl, rfl, rfl⟩, ⟨rfl, rfl⟩, rfl, by decide, by decide +kernel, by decide +kernel,
    by decide +kernel⟩

theorem test_met_suspend :
    (passing .run (.reading rec0 15) (paired copying)).engine.state = .run ∧
      (passing .run (.reading rec0 15) (paired copying)).engine.urgentRun = none ∧
      (passing .run (.reading rec0 15) (paired copying)).pubUnit = .reading rec0 15 := by decide +kernel

/-- The publish record with a cause of abandon. -/
def abandoned (c : AbandonCause) : PublishRecord := { rec0 with abandons := [c] }

theorem test_met_stop :
    (passing .urgent (.writing rec0 15 [7]) (paired copying)).accepts ∧
      (passing .stopping (.writing (abandoned .stop) 15 [7]) (paired copying)).paired? rec0.handle =
        some (window0 copying, copying) ∧
      (passing .stopping (.writing (abandoned .stop) 15 [7]) (paired copying)).inStore
        (copying.bankOffset .b + 15 * 256) 1 = true ∧
      (passing .stopping (.writing (abandoned .stop) 15 [7]) (paired copying)).engine.urgentRun = none ∧
      (∀ q, (passing .stopping (.writing (abandoned .stop) 15 [7]) (paired copying)).waitingAccess q =
        none) :=
  ⟨⟨rfl, rfl⟩, by decide +kernel, by decide +kernel, rfl, by decide +kernel⟩

/-! #### Locks and ports -/

theorem test_met_break :
    field (opr (two 0 0) 0) 0 2 = 0 ∧ field (opr (two 3 0) 0) 0 2 = 3 ∧ field (opr (two 1 4) 0) 0 2 = 1 ∧
      3 < (field (opr (two 1 4) 1) 0 8).toNat ∧ portOf (field (opr (two 1 3) 1) 0 8) = some 3 ∧
      (two 1 3).lock 3 = none ∧ ((timed none).lock 0).isSome = true ∧
      field (opr (setting 2 0 65535) 0) 0 2 = 2 ∧ (opr (setting 2 0 65535) 2).toNat = 65535 ∧
      65535 < (opr (setting 2 0 65536) 2).toNat := by decide +kernel

theorem test_met_expiry :
    (timed (some (.running 1))).inReset = none ∧
      (timed (some (.running 1))).lock 0 =
        some { window := first 0, phase := .heldByPort, timer := some (.running 1) } ∧
      (timed (some (.stopped 0 0))).lock 0 =
        some { window := first 0, phase := .heldByPort, timer := some (.stopped 0 0) } ∧
      (timed none).lock 1 = none := by decide +kernel

theorem test_met_port :
    3 < (field (opr (two 4 1) 0) 0 8).toNat ∧ portOf (field (opr (two 3 2) 0) 0 8) = some 3 ∧
      field (opr (two 3 2) 1) 0 2 = 2 ∧ field (opr (two 3 1) 1) 0 2 = 1 ∧ (two 3 2).lock 3 = none ∧
      ((withOperands [0, 2] (timed none)).lock 0).isSome = true := by decide +kernel

/-! #### Accesses -/

/-- P3 in STANDBY. -/
def standby : State := setPortState 3 .standby (paired pair)

theorem test_met_checks :
    (standby.port 3).state = .standby ∧ (standby.port 3).access = none ∧ (standby.port 0).state = .active ∧
      (∀ i w, (State.reset.slot i).win = some w → w.covers (alignAddress 0x1001 .two).toNat = false) ∧
      (paired pair).windowAt (alignAddress 0x1FFF .eight).toNat = some (0, window0 pair) ∧
      hasRights 0 .lockRead { window0 pair with writeMask := 14 } = false ∧
      hasRights 0 .lockRead (window0 pair) = true ∧
      (window0 { pair with drain := some 0 }).draining = true ∧ needsWrite .write = true ∧
      (openIn 1 (.view (first 0)) (paired { pair with gen := 0 })).paired? (first 0) =
        some (window0 { pair with gen := 0 }, { pair with gen := 0 }) := by
  refine ⟨by decide +kernel, by decide +kernel, by decide +kernel, ?_, by decide +kernel, by decide +kernel,
    by decide +kernel, by decide +kernel, by decide +kernel, by decide +kernel⟩
  intro i w h
  have : ∀ i, (State.reset.slot i).win = none := by decide +kernel
  rw [this i] at h; cases h

theorem test_met_request :
    (paired pair).windowAt (alignAddress 0x1004 .four).toNat = some (0, window0 pair) ∧
      unpublished (paired pair) (window0 pair) = false ∧
      (passing .run (.reading rec0 15) (paired copying)).grant ≠ none ∧ (paired pair).grant = none ∧
      (∀ p, (paired pair).waitingAccess p = none) ∧ (paired pair).unitWaiting = false ∧
      (paired pair).isLocked ((paired pair).handleAt 0) = false ∧
      otherHolds 0 ((paired pair).handleAt 0) (paired pair) = false ∧
      takingPart 0 (access0 .write .four 4 1 (.paired pair)) (paired pair) = [] ∧
      takingPart 0 (access0 .releaseWrite .four 4 1 (.paired pair)) (timed none) = [] ∧
      ((timed none).lock 0).map Lock.window = some ((timed none).handleAt 0) := by decide +kernel

theorem test_met_lock_checks :
    LocksSound (timed none) ∧ (access0 .lockRead .four 0 0 (.paired pair)).cls = .lockRead ∧
      (timed none).holds 0 (first 0) = true ∧ (timed none).window? (first 0) = some (window0 pair) ∧
      (timed none).window? { first 0 with inst := 2 } = none ∧ (standby.port 3).state = .standby ∧
      lockCheck 1 (access0 .write .four 0 0 (.paired pair)) (timed none) = some .locked := by
  refine ⟨⟨?_, ?_⟩, rfl, by decide +kernel, by decide +kernel, by decide +kernel, by decide +kernel,
    by decide +kernel⟩
  · intro p l h
    have : ∀ p, (timed none).lock p = none ∨
        (timed none).lock p = some { window := first 0, phase := .heldByPort, timer := none } := by
      decide +kernel
    rcases this p with h1 | h1 <;> rw [h1] at h <;> cases h
    exact ⟨window0 pair, by decide +kernel, by decide +kernel⟩
  · intro p q l m h k _
    have : ∀ p, p ≠ 0 → (timed none).lock p = none := by decide +kernel
    have hp : p = 0 := by
      by_contra hp; rw [this p hp] at h; cases h
    have hq : q = 0 := by
      by_contra hq; rw [this q hq] at k; cases k
    rw [hp, hq]

/-- A part with one guard of the window in slot 0, on its word 4. -/
def watched (act : GuardAction) : State := (paired pair).setGuard 0 (some (guard0 4 act))

theorem test_met_guard_check :
    takingPart 0 (access0 .write .four 4 6 (.paired pair)) (watched .refuse) =
        [holdGuard 0 (guard0 4 .refuse)] ∧
      otherHolds 0 (first 0) (watched .refuse) = false ∧
      (holdGuard 0 (guard0 4 .refuse)).admits 6 = false ∧ (holdGuard 0 (guard0 4 .refuse)).admits 1 = false ∧
      (holdGuard 0 (guard0 4 .refuse)).admits 2 = true ∧ (holdGuard 0 (guard0 4 .refuse)).admits 5 = true ∧
      takingPart 0 (access0 .write .eight 0 0 (.paired pair)) (watched .report) =
        [holdGuard 0 (guard0 4 .report)] ∧
      takingPart 0 (access0 .write .one 7 0 (.paired pair)) (watched .report) ≠ [] ∧
      (watched .report).guard 0 = some (guard0 4 .report) := by decide +kernel

/-- A read and a write of P0 at the last byte of the store. -/
def atTheEnd (c : AccessClass) : State :=
  serving 0 (access0 c .one 0xFFF 7 (.paired pair)) (.storing (some 67108863)) (paired pair)

theorem test_met_store_done :
    (atTheEnd .read).grant = some (.port 0) ∧ (atTheEnd .read).inReset = none ∧
      ((atTheEnd .write).port 0).access = some
        { acc := access0 .write .one 0xFFF 7 (.paired pair), stage := .storing (some 67108863) } ∧
      classReads (access0 .read .one 0xFFF 7 (.paired pair)).cls = true ∧
      (atTheEnd .read).inStore 67108863 1 = true ∧ StoreCanonical (atTheEnd .write) ∧
      (lockedBy 0 .releasing none (atTheEnd .releaseWrite)).lock 0 =
        some { window := first 0, phase := .releasing, timer := none } := by
  refine ⟨by decide +kernel, by decide +kernel, by decide +kernel, rfl, by decide +kernel, rfl,
    by decide +kernel⟩

theorem test_met_marking :
    (paired pair).window? (first 1) = none ∧ (window0 pair).dirty? = some (.lines [15]) ∧
      (window0 { pair with dirty := .whole }).dirty? = some .whole ∧ 15 ∈ [15] ∧ 0 ∉ [15] ∧
      0 < (paired pair).free ∧ ({ paired pair with free := 0 } : State).free = 0 ∧
      ({ window0 pair with body := .view (first 0) } : Window).kind = .view := by decide +kernel

theorem test_met_thresholds :
    State.reset.engine.config.urgeOn = 512 ∧ 512 < State.reset.engine.config.urgeOff ∧
      State.reset.engine.config.urgeOff ≤ 2048 ∧ State.reset.engine.config.urgeOn < 513 ∧
      2047 < State.reset.engine.config.urgeOff := by decide

/-- A merging read of P0 on word 4 of the window in slot 0. -/
def merging (c : AccessClass) (act : GuardAction) : State :=
  serving 0 (access0 c .one 7 6 (.paired pair)) (.merging [holdGuard 0 (guard0 4 act)]) (watched act)

theorem test_met_merging :
    (merging .write .refuse).grant = some (.port 0) ∧ (merging .write .refuse).inReset = none ∧
      storeAddress (merging .write .refuse) (access0 .write .one 7 6 (.paired pair)) = some 7 ∧
      (merging .write .refuse).inStore (7 - 7 % 4) 4 = true ∧
      (holdGuard 0 (guard0 4 .refuse)).admits
        (mergedWord (access0 .write .one 7 6 (.paired pair))
          (Memory.read (merging .write .refuse).store 4 4)) = false ∧
      (lockedBy 0 .releasing (some (.stopped 5 4)) (merging .releaseWrite .refuse)).lock 0 =
        some { window := first 0, phase := .releasing, timer := some (.stopped 5 4) } ∧
      4 + 0 < 5 ∧ 5 ≤ 4 + 1 := by decide +kernel

/-- P2's read waits. -/
def waiting : State :=
  (paired pair).setPort 2 { (paired pair).port 2 with
    access := some { acc := access0 .read .four 0 0 (.paired pair), stage := .waiting } }

theorem test_met_decision :
    waiting.grant = none ∧ waiting.urgency = false ∧
      waiting.waitingAccess (waiting.pointer + Fin.ofNat 4 3) =
        some (access0 .read .four 0 0 (.paired pair)) ∧
      waiting.waitingAccess (waiting.pointer + Fin.ofNat 4 1) = none ∧
      waiting.waitingAccess (waiting.pointer + Fin.ofNat 4 2) = none ∧
      lockCheck 2 (access0 .read .four 0 0 (.paired pair)) waiting = none ∧
      ({ paired copying with urgency := true, pubUnit := .reading rec0 15 } : State).pubUnit.wantsStore =
        true ∧
      (∀ p, ({ paired copying with pubUnit := .reading rec0 15 } : State).waitingAccess p = none) ∧
      (paired pair).pubUnit.wantsStore = false ∧ (∀ p, (paired pair).waitingAccess p = none) := by
  decide +kernel

/-! #### Publishing -/

theorem test_met_line_read :
    (passing .run (.reading rec0 15) (paired copying)).grant = some .engine ∧
      (passing .run (.reading rec0 15) (paired copying)).paired? rec0.handle =
        some (window0 copying, copying) ∧
      (passing .run (.reading rec0 15) (paired copying)).inStore (copying.live.toNat + 15 * 256) 256 =
        true := by decide +kernel

/-- The fields with line 3 of W being copied and line 15 still to come. -/
def early : Paired := { pair with work := some { set := .lines [3, 15], pos := 3 } }

theorem test_met_line_boundary :
    (passing .run (.writing rec0 3 [7]) (paired early)).paired? rec0.handle =
        some (window0 early, early) ∧
      nextCopyLine (window0 early) { early with work := some { set := .lines [3, 15], pos := 4 } } =
        some 15 ∧
      (passing .run (.writing rec0 3 [7]) (paired early)).isLocked rec0.handle = false ∧
      (passing .run (.writing rec0 3 [7]) (timed none)).isLocked rec0.handle = true ∧
      nextCopyLine (window0 copying) { copying with work := some { set := .lines [15], pos := 16 } } =
        none ∧
      AbandonCause.retired ∈ (abandoned .retired).abandons ∧
      AbandonCause.retired ∉ (abandoned .stop).abandons := by decide +kernel

/-- The last boundary of a SINGLE pass of one entry. -/
def ending : State := passing .run (.writing rec0 15 [7]) (paired copying)

theorem test_met_last_boundary :
    ending.inReset = none ∧ ending.isLocked rec0.handle = false ∧
      ending.inStore (copying.bankOffset .b + 15 * 256) 1 = true ∧ ending.engine.config.mode = .single ∧
      ending.engine.config.autoUrgent = false ∧ ending.engine.regularSeq.length = 0 + 1 ∧
      ending.engine.context = none ∧ ending.engine.restartPass = false ∧
      ending.engine.regularPending = false ∧ ending.engine.urgentRequested = false ∧
      ending.engine.drainQueue = [] ∧ (∀ q, ending.waitingAccess q = none) := by decide +kernel

/-- A held publish with a continue on its way. -/
def holding (s : State) : State :=
  { passing .held (.paused rec0) s with
    grant := none, continues := 1,
    engine := { (passing .held (.paused rec0) s).engine with heldFrom := some .run } }

theorem test_met_continue :
    (holding (paired early)).inReset = none ∧ 0 < (holding (paired early)).continues ∧
      (holding (paired early)).paired? rec0.handle = some (window0 early, early) ∧
      (holding (paired early)).isLocked rec0.handle = false ∧
      nextCopyLine (window0 early) early = some 3 ∧ (holding (timed none)).isLocked rec0.handle = true ∧
      State.reset.continues = 0 := by decide +kernel

/-! #### Both timers, a read at a reset, several guards -/

theorem test_met_both_timers :
    ({ timed (some (.running 2)) with
        engine := { (timed none).engine with paceTimer := some 1 } } : State).engine.paceTimer = some 1 ∧
      ({ timed (some (.running 2)) with
        engine := { (timed none).engine with paceTimer := some 1 } } : State).lock 0 =
          some { window := first 0, phase := .heldByPort, timer := some (.running 2) } := by decide +kernel

theorem test_met_read_at_reset :
    (atTheEnd .read).grant = some (.port 0) ∧ ((atTheEnd .read).port 0).access = some
        { acc := access0 .read .one 0xFFF 7 (.paired pair), stage := .storing (some 67108863) } ∧
      (passing .run (.reading rec0 15) (paired copying)).grant = some .engine := by decide +kernel

/-- Two guards of the window in slot 0, on its words 0 and 4. -/
def twice (act : GuardAction) : State := (watched act).setGuard 9 (some (guard0 0 .report))

theorem test_met_several_guards :
    takingPart 0 (access0 .write .eight 0 6 (.paired pair)) (twice .report) =
        [holdGuard 0 (guard0 4 .report), holdGuard 9 (guard0 0 .report)] ∧
      ([holdGuard 0 (guard0 4 .report), holdGuard 9 (guard0 0 .report)].map HeldGuard.index).Nodup ∧
      checkedWord (access0 .write .eight 0 6 (.paired pair)) (holdGuard 0 (guard0 4 .report)) = 0 ∧
      checkedWord (access0 .write .eight 0 6 (.paired pair)) (holdGuard 9 (guard0 0 .report)) = 6 ∧
      (holdGuard 9 (guard0 0 .report)).admits 6 = false := by decide +kernel

theorem test_met_release_guard :
    takingPart 0 (access0 .releaseWrite .four 4 6 (.paired pair)) (watched .refuse) ≠ [] ∧
      takingPart 0 (access0 .releaseWrite .one 7 6 (.paired pair)) (watched .refuse) ≠ [] ∧
      (lockedBy 0 .heldByPort (some (.running 1)) (watched .refuse)).lock 0 =
        some { window := first 0, phase := .heldByPort, timer := some (.running 1) } ∧
      (lockedBy 0 .heldByPort none (watched .refuse)).lock 0 =
        some { window := first 0, phase := .heldByPort, timer := none } := by decide +kernel

theorem test_met_lock_view :
    ((openIn 1 (.view (first 0)) (paired pair)).window? (first 1)).map Window.kind = some .view := by
  decide +kernel

/-! #### The suspended context, urgent runs, drains and sub-runs -/

/-- The fields of the PAIRED window in slot 1. -/
def other : Paired := { pair with live := 0x4000, bankA := 0x5000, bankB := 0x6000 }

/-- The window in slot 1 of `both p`. -/
def window1 : Window := { window0 other with base := 0x2000 }

/-- A part with PAIRED windows in slots 0 and 1. -/
def both (p : Paired) : State := openIn 1 (.paired other) (paired p)

/-- The engine changed. -/
def withEngine (f : Engine → Engine) (s : State) : State := { s with engine := f s.engine }

/-- The urgent list and the urgent requested flag. -/
def urging (h : Handle) (q : Bool) : State → State :=
  withEngine fun e => { e with urgentList := [h], urgentRequested := q }

/-- The line boundary at which the pass's publish is suspended. -/
def suspending (h : Handle) : State :=
  urging h true (passing .run (.writing { rec0 with suspend := true } 3 [7]) (both early))

theorem test_met_suspended :
    (suspending (first 1)).paired? (first 0) = some (window0 early, early) ∧
      (suspending (first 1)).paired? (first 1) = some (window1, other) ∧
      (suspending (first 1)).inStore (early.bankOffset .b + 3 * 256) 1 = true ∧
      (suspending (first 1)).isLocked (first 1) = false ∧ nextCopyLine window1 other.take = some 3 ∧
      (suspending (first 0)).isLocked (first 0) = false ∧
      nextCopyLine (window0 early) { early with work := some { set := .lines [3, 15], pos := 4 } } = some 15 ∧
      (suspending (first 1)).engine.urgentRun = none ∧
      (urging (first 1) false (holding (both early))).pubUnit = .paused rec0 ∧
      (urging (first 1) false (holding (both early))).cmd.busy = false ∧
      (urging (first 1) false (holding (both early))).engine.purpose = some .regular := by decide +kernel

/-- A part whose engine comes to a suspended context. -/
def contextOf (h : Handle) (o : CtxOutcome) (s : State) : State :=
  withEngine (fun e => { e with context := some { handle := h, pos := 0, outcome := o } }) s

theorem test_met_context :
    (contextOf (first 0) .waiting (paired early)).engine.drainQueue = [] ∧
      (contextOf (first 0) .waiting (paired early)).engine.urgentRun = none ∧
      (contextOf (first 0) .waiting (paired early)).engine.urgentRequested = false ∧
      (contextOf (first 0) .waiting (paired early)).paired? (first 0) = some (window0 early, early) ∧
      (contextOf (first 3) .waiting (paired early)).paired? (first 3) = none ∧
      nextCopyLine (window0 early) early = some 3 ∧
      (contextOf (first 0) .waiting (paired early)).isLocked (first 0) = false ∧
      (contextOf (first 0) .waiting (timed none)).isLocked (first 0) = true ∧
      (contextOf (first 0) .adopted (paired early)).engine.restartUrgent = false := by decide +kernel

/-- An urgent run of the window in slot 0, its last entry, at the boundary of its publish. -/
def urgent (r : PublishRecord) (s : State) : State :=
  withEngine (fun e => { e with
      run := none, working := none, purpose := some .urgent, urgentList := [first 0],
      urgentRun := some
        { pos := 0, work := { number := 1, published := 0, skipped := 0, vacant := 0, copied := false } } })
    (passing .urgent (.writing r 15 [7]) s)

theorem test_met_urgent_end :
    (urgent rec0 (paired copying)).paired? (first 0) = some (window0 copying, copying) ∧
      (urgent rec0 (paired copying)).inStore (copying.bankOffset .b + 15 * 256) 1 = true ∧
      (urgent rec0 (paired copying)).engine.urgentList.length = 0 + 1 ∧
      (urgent rec0 (paired copying)).isLocked (first 0) = false ∧
      (urgent rec0 (paired copying)).engine.context = none ∧
      (∀ q, (urgent rec0 (paired copying)).waitingAccess q = none) := by decide +kernel

/-- The same with a USEQ taken, whose list is the window in slot 1. -/
def restarting : State :=
  withEngine (fun e => { e with urgentList := [first 1], restartUrgent := true })
    (urgent (abandoned .useq) (both copying))

theorem test_met_useq :
    restarting.paired? (first 0) = some (window0 copying, copying) ∧
      restarting.paired? (first 1) = some (window1, other) ∧ restarting.isLocked (first 1) = false ∧
      restarting.engine.urgentRequested = false ∧ (∀ q, restarting.waitingAccess q = none) ∧
      (listing (urgent rec0 (paired copying))).cmd.busy = false ∧
      (listing (urgent rec0 (paired copying))).engine.urgentRun ≠ none ∧
      oprEntries (listing (urgent rec0 (paired copying))) 2 = some [first 0, first 0] := by decide +kernel

theorem test_met_drain_begins :
    (retiring 1 (paired pair)).quiet ∧ (retiring 1 (paired pair)).accepts ∧
      oprWindow (retiring 1 (paired pair)) = some (first 0, window0 pair) ∧
      (retiring 1 (paired pair)).isLocked (first 0) = false ∧ pair.dirty ≠ .lines [] ∧
      nextCopyLine (window0 pair) pair.take = some 3 :=
  ⟨⟨rfl, rfl, rfl, rfl, rfl, rfl, rfl⟩, ⟨rfl, rfl⟩, by decide +kernel, by decide +kernel, by decide,
    by decide +kernel⟩

/-- The drain publish of the window in slot 0, alone in the queue. -/
def draining (u : PubUnit) (p : Paired) : State :=
  withEngine (fun e => { e with
      run := none, working := none, purpose := some .drain, drainQueue := [first 0] })
    (passing .drain u (paired p))

/-- The last line's copy of a drain publish, with some attempts counted and this D. -/
def drained (n : Nat) (d : LineSet) : Paired := { copying with drain := some n, dirty := d }

theorem test_met_drain_flips :
    (draining (.writing rec0 15 [7]) (drained 0 (.lines []))).paired? (first 0) =
        some (window0 (drained 0 (.lines [])), drained 0 (.lines [])) ∧
      (draining (.writing rec0 15 [7]) (drained 0 (.lines []))).isLocked (first 0) = false ∧
      (draining (.writing rec0 15 [7]) (drained 0 (.lines [2]))).inStore
        ((drained 0 (.lines [2])).bankOffset .b + 15 * 256) 1 = true ∧
      nextCopyLine (window0 (drained 0 (.lines [2])))
        { drained 0 (.lines [2]) with work := some { set := .lines [15], pos := 16 } } = none ∧
      nextCopyLine (window0 (drained 0 (.lines [2])))
        { drained 0 (.lines [2]) with
          current := .b, gen := 2, carry := .lines [15], dirty := .lines [],
          work := some { set := .lines [2], pos := 0 } } = some 2 ∧
      (∀ q, (draining (.writing rec0 15 [7]) (drained 0 (.lines []))).waitingAccess q = none) := by
  decide +kernel

theorem test_met_drain_fails :
    (draining (.reading rec0 15) (drained 1 (.lines [2]))).paired? (first 0) =
        some (window0 (drained 1 (.lines [2])), drained 1 (.lines [2])) ∧
      (draining (.reading rec0 15) (drained 1 (.lines [2]))).inStore (0 + 15 * 256) 256 = true ∧
      (LineSet.lines [2]).union (.lines [15]) = .lines [2, 15] ∧
      nextCopyLine (window0 (drained 0 (.lines [2])))
        { drained 1 (.lines []) with work := some { set := .lines [2, 15], pos := 0 } } = some 2 ∧
      (draining (.reading rec0 15) (drained 0 (.lines [2]))).engine.drainQueue = [first 0] := by
  decide +kernel

/-- A STEPPED engine in IDLE with two entries, at a cursor. -/
def stepping (n : Nat) : State :=
  withEngine (fun e => { e with
      cursor := n, regularSeq := [first 0, first 0],
      working := some { number := 1, published := 0, skipped := 0, vacant := 0, copied := false },
      config := { e.config with mode := .stepped } })
    (armed .idle pair)

theorem test_met_stepped_begins :
    (stepping 0).quiet ∧ (stepping 1).quiet ∧ (stepping 0).engine.regularSeq[0]? = some (first 0) ∧
      (stepping 1).engine.regularSeq[1]? = some (first 0) ∧ 1 ≤ (stepping 0).engine.config.step ∧
      (stepping 1).engine.working ≠ none ∧ (stepping 0).engine.config.trigREnable = true ∧
      (stepping 0).engine.paceTimer ≠ none ∧ (stepping 0).accepts :=
  ⟨⟨rfl, rfl, rfl, rfl, rfl, rfl, rfl⟩, ⟨rfl, rfl, rfl, rfl, rfl, rfl, rfl⟩, rfl, rfl, by decide, by decide,
    rfl, by decide, ⟨rfl, rfl⟩⟩

/-- The last boundary of a sub-run of one entry, at a cursor. -/
def subRun (n : Nat) : State :=
  withEngine (fun e => { e with
      cursor := n, regularSeq := [first 0, first 0], run := some { pos := n, remaining := some 1 },
      config := { e.config with mode := .stepped } })
    ending

theorem test_met_stepped_ends :
    (subRun 0).engine.cursor + 1 < (subRun 0).engine.regularSeq.length ∧
      (subRun 1).engine.regularSeq.length ≤ (subRun 1).engine.cursor + 1 ∧
      (subRun 0).paired? (first 0) = some (window0 copying, copying) ∧ (subRun 0).engine.context = none ∧
      (subRun 0).isLocked (first 0) = false ∧ (∀ q, (subRun 1).waitingAccess q = none) ∧
      (withEngine (fun e => { e with regularSeq := [] }) (stepping 0)).engine.regularSeq = [] := by
  decide +kernel

/-- A PAIRED window with one view, in slot 1. -/
def viewed : State := openIn 1 (.view (first 0)) (paired { pair with views := 1 })

/-- The window in slot 1 of `viewed`, with the empty write mask of a VIEW. -/
def viewedMasked : State :=
  viewed.setWindow 1 { window0 pair with base := 0x2000, writeMask := 0, body := .view (first 0) }

/-! #### A pass begun again, STOP in HELD, the register words -/

theorem test_met_restart_paused :
    (holding (paired early)).accepts ∧ (holding (paired early)).pubUnit = .paused rec0 := ⟨⟨rfl, rfl⟩, rfl⟩

/-- A capture that holds a record. -/
def captured (f : FaultRecord) : State := offerFault f .reset

theorem test_met_capture :
    (captured (.access 1 .write 8 .miss none)).events.capture = some (.access 1 .write 8 .miss none) ∧
      registerRead (captured (.access 1 .write 8 .miss none)) 0x064 = some 0x231 ∧
      registerRead (captured (.lineCopy 256 true 5)) 0x06C = some 0x105 ∧
      registerRead .reset 0x000 = some 0x13240 := by decide +kernel

theorem test_met_translation :
    lookupStore viewedMasked (window0 pair) 3 = 3 ∧ (viewedMasked.window? (first 1)).map Window.kind = some .view ∧
      viewedMasked.paired? (first 0) = some (window0 { pair with views := 1 }, { pair with views := 1 }) ∧
      (paired pair).windowAt 0x1000 = some (0, window0 pair) ∧
      (paired pair).windowAt 0x1FFF = some (0, window0 pair) ∧ (paired pair).windowAt 0x2000 = none ∧
      (window0 pair).kind ≠ .view := by decide +kernel

/-- The boundary at which the unit reports to an engine whose SEQ waits. -/
def again (u : PubUnit) : State :=
  withEngine (fun e => { e with restartPass := true }) (passing .run u (paired copying))

theorem test_met_pass_again :
    (again (.writing (abandoned .seq) 15 [7])).engine.regularSeq ≠ [] ∧
      (again (.writing (abandoned .seq) 15 [7])).paired? rec0.handle = some (window0 copying, copying) ∧
      AbandonCause.retired ∉ (abandoned .seq).abandons ∧
      (again (.writing (abandoned .seq) 15 [7])).inStore (copying.bankOffset .b + 15 * 256) 1 = true ∧
      (again (.reading (abandoned .seq) 15)).inStore (copying.live.toNat + 15 * 256) 256 = true := by
  decide +kernel

/-- A pass in progress while other work has the unit, its window's publish suspended or between two entries. -/
def aside (c : Option SuspendedCtx) : State :=
  listing (withEngine (fun e => { e with context := c, purpose := some .urgent })
    (passing .urgent .ready (paired early)))

theorem test_met_seq_effects :
    oprEntries (listing (holding (paired early))) 2 = some [first 0, first 0] ∧
      (listing (holding (paired early))).accepts ∧ (listing (holding (paired early))).engine.state = .held ∧
      (listing (holding (paired early))).engine.purpose = some .regular ∧
      (listing (holding (paired early))).paired? (first 0) = some (window0 early, early) ∧
      (aside (some { handle := first 0, pos := 0, outcome := .waiting })).accepts ∧
      (aside (some { handle := first 0, pos := 0, outcome := .adopted })).engine.working ≠ none ∧
      (aside none).engine.purpose ≠ some .regular ∧ (aside none).engine.run ≠ none ∧
      (aside none).paired? (first 0) = some (window0 early, early) :=
  ⟨by decide +kernel, ⟨rfl, rfl⟩, rfl, rfl, by decide +kernel, ⟨rfl, rfl⟩, by decide +kernel, by decide +kernel,
    by decide +kernel, by decide +kernel⟩

/-- A held publish of an urgent run, with or without a pass in progress. -/
def heldUrgent (pass : Bool) : State :=
  withEngine (fun e => { e with
      run := if pass then e.run else none, working := if pass then e.working else none,
      purpose := some .urgent,
      urgentRun := some
        { pos := 0, work := { number := 1, published := 0, skipped := 0, vacant := 0, copied := false } } })
    (holding (paired early))

theorem test_met_stop_held :
    (holding (paired early)).engine.urgentRun = none ∧ (holding (paired early)).engine.context = none ∧
      (holding (paired early)).engine.drainQueue = [] ∧ (heldUrgent false).accepts ∧
      (heldUrgent false).engine.run = none ∧ (heldUrgent true).engine.run ≠ none ∧
      (heldUrgent true).engine.working ≠ none ∧
      (heldUrgent true).paired? (first 0) = some (window0 early, early) :=
  ⟨rfl, rfl, rfl, ⟨rfl, rfl⟩, rfl, by decide +kernel, by decide +kernel, by decide +kernel⟩

theorem test_met_release_merging :
    (holdGuard 0 (guard0 4 .report)).action ≠ .refuse ∧ (merging .releaseWrite .report).inReset = none ∧
      (lockedBy 0 .releasing none (merging .releaseWrite .report)).lock 0 =
        some { window := first 0, phase := .releasing, timer := none } ∧
      mergedWord (access0 .write .two 6 0xBBAA (.paired pair)) [1, 2, 3, 4] = 0xBBAA0201 := by decide +kernel

/-! #### Boundaries taken before a request, the end of STOPPING, entries emptied meanwhile -/

/-- The record with a request that the boundary finds on its way, and with one that has waited for it. -/
theorem test_met_boundary_first :
    (abandoned .retired).waited = 0 ∧ (abandoned .retired).suspendWaited = false ∧
      (abandoned .stop).wait.waited = (abandoned .stop).wait.abandons.length ∧
      ({ rec0 with suspend := true } : PublishRecord).wait.suspendWaited = true ∧
      (again (.writing (abandoned .seq) 15 [7])).isLocked rec0.handle = false ∧
      nextCopyLine (window0 copying) { copying with work := some { set := .lines [15], pos := 16 } } = none ∧
      restarting.isLocked (first 0) = false ∧ restarting.engine.restartUrgent = true := by decide +kernel

/-- The unit at the boundary of the last line, the copy position past it. -/
def atLast : State := setCopyPosition (first 0) 16 ending

/-- A boundary before the abandon flips the window, and one after it does not; a line left takes the abandon
on (R66). -/
theorem test_boundary_before_and_after :
    (boundary true (abandoned .stop) atLast).2 = some .flipped ∧
      (boundary false (abandoned .stop) atLast).2 = some (.abandoned .stop) ∧
      (boundary true (abandoned .stop) (paired early)).2 = none ∧
      (boundary true (abandoned .stop).wait (paired early)).2 = some (.abandoned .stop) := by decide +kernel

/-- A RETIRE that comes after the last boundary frees the flipped window; one that comes after a boundary at
which an older SEQ ends the publish frees it too, and SEQ's cause stands (R66, R156). -/
theorem test_retire_after_boundary :
    (boundary true (abandoned .retired) atLast).2 = some .flipped ∧
      (boundary true (abandoned .retired) atLast).1.window? (first 0) = none ∧
      (boundary true { rec0 with abandons := [.seq, .retired], waited := 1 } atLast).2 =
        some (.abandoned .seq) ∧
      (boundary true { rec0 with abandons := [.seq, .retired], waited := 1 } atLast).1.window? (first 0) =
        none := by decide +kernel

/-- The last boundary before a suspend, with a second entry to come and the urgent run's window in slot 1. -/
def passedSuspend : State :=
  withEngine (fun e => { e with regularSeq := [first 0, first 0] })
    (urging (first 1) true (passing .run (.writing { rec0 with suspend := true } 15 [7]) (both copying)))

theorem test_met_suspend_late :
    passedSuspend.paired? (first 0) = some (window0 copying, copying) ∧
      passedSuspend.paired? (first 1) = some (window1, other) ∧ passedSuspend.isLocked (first 0) = false ∧
      passedSuspend.isLocked (first 1) = false ∧ passedSuspend.engine.state = .run ∧
      passedSuspend.engine.context = none ∧ passedSuspend.engine.working.isSome = true ∧
      passedSuspend.engine.restartPass = false ∧ passedSuspend.engine.config.mode ≠ .stepped ∧
      passedSuspend.engine.run = some { pos := 0, remaining := none } ∧
      0 + 1 < passedSuspend.engine.regularSeq.length ∧ passedSuspend.engine.urgentRun = none := by
  decide +kernel

/-- A held publish with no further line to copy. -/
def holdingLast : State := holding (paired { copying with work := some { set := .lines [15], pos := 16 } })

theorem test_met_continue_flips :
    holdingLast.pubUnit = .paused rec0 ∧ holdingLast.isLocked (first 0) = false ∧
      holdingLast.engine.heldFrom = some .run ∧ holdingLast.engine.purpose = some .regular ∧
      holdingLast.engine.restartPass = false ∧
      holdingLast.paired? (first 0) = some
        (window0 { copying with work := some { set := .lines [15], pos := 16 } },
          { copying with work := some { set := .lines [15], pos := 16 } }) ∧
      nextCopyLine (window0 pair) { copying with work := some { set := .lines [15], pos := 16 } } = none := by
  decide +kernel

/-- The fields of the window in slot 1 with a suspended publish. -/
def setAside : Paired := { other with work := some { set := .lines [2], pos := 2 } }

/-- An engine in STOPPING, its publish in slot 0 at the last boundary, slot 1 set aside. -/
def stoppingAt (pu : Purpose) (c : Option SuspendedCtx) : State :=
  withEngine (fun e => { e with
      purpose := some pu, context := c, drainQueue := if pu = .drain then [first 0] else [],
      urgentRun := if pu = .urgent then some
        { pos := 0, work := { number := 1, published := 0, skipped := 0, vacant := 0, copied := false } }
        else none })
    (passing .stopping (.writing (abandoned .stop) 15 [7])
      (openIn 1 (.paired setAside) (paired { copying with drain := if pu = .drain then some 0 else none })))

theorem test_met_stopping_ends :
    (stoppingAt .urgent (some { handle := first 1, pos := 0, outcome := .waiting })).paired? (first 1) =
        some ({ window1 with body := .paired setAside }, setAside) ∧
      (stoppingAt .urgent (some { handle := first 0, pos := 0, outcome := .adopted })).paired? (first 0) =
        some (window0 copying, copying) ∧
      (stoppingAt .regular none).engine.run.isSome = true ∧
      (stoppingAt .regular none).engine.working.isSome = true ∧
      (stoppingAt .urgent none).engine.urgentRun.isSome = true ∧
      (stoppingAt .drain none).engine.urgentRun = none ∧ (stoppingAt .drain none).engine.state = .stopping ∧
      (stoppingAt .drain none).isLocked (first 0) = false ∧
      (stoppingAt .urgent none).inStore (copying.bankOffset .b + 15 * 256) 1 = true ∧
      AbandonCause.retired ∉ (abandoned .stop).abandons ∧ first 1 ≠ first 0 ∧
      (withEngine (fun e => { e with run := none }) (stoppingAt .drain none)).engine.run = none := by
  decide +kernel

/-- An engine in IDLE with a window left in the drain queue. -/
def queued : State :=
  withEngine (fun e => { e with drainQueue := [first 0] }) (paired { pair with drain := some 0 })

theorem test_met_drain_again :
    queued.engine.state = .idle ∧ queued.pubUnit = .ready ∧ queued.engine.context = none ∧
      queued.paired? (first 0) = some (window0 { pair with drain := some 0 }, { pair with drain := some 0 }) ∧
      nextCopyLine (window0 pair) ({ pair with drain := some 0 } : Paired).take = some 3 ∧
      (contextOf (first 1) .waiting (heldUrgent true)).engine.state = .held := by decide +kernel

/-- A RELEASE_WRITE whose entry has been emptied, at the store and at its merging read. -/
theorem test_met_emptied :
    (atTheEnd .releaseWrite).lock 0 = none ∧ (merging .releaseWrite .refuse).lock 0 = none ∧
      (holdGuard 0 (guard0 4 .refuse)).admits
        (mergedWord (access0 .releaseWrite .one 7 6 (.paired pair))
          (Memory.read (merging .releaseWrite .refuse).store 4 4)) = false ∧
      storeAddress (merging .releaseWrite .refuse) (access0 .releaseWrite .one 7 6 (.paired pair)) = some 7 := by
  decide +kernel

/-- P2's access waits. -/
def waitingOf (c : AccessClass) (z : AccessSize) (o : Nat) (s : State) : State :=
  s.setPort 2 { s.port 2 with access := some { acc := access0 c z o 6 (.paired pair), stage := .waiting } }

theorem test_met_decision_writes :
    lockCheck 2 (access0 .write .four 4 6 (.paired pair)) (waitingOf .write .four 4 (watched .refuse)) =
        none ∧
      takingPart 2 (access0 .write .four 4 6 (.paired pair)) (waitingOf .write .four 4 (watched .refuse)) =
        [holdGuard 0 (guard0 4 .refuse)] ∧
      takingPart 2 (access0 .write .four 8 6 (.paired pair)) (waitingOf .write .four 8 (watched .refuse)) =
        [] ∧
      takingPart 2 (access0 .write .one 7 6 (.paired pair)) (waitingOf .write .one 7 (watched .refuse)) ≠
        [] ∧
      (holdGuard 0 (guard0 4 .refuse)).admits
        (checkedWord (access0 .write .four 4 6 (.paired pair)) (holdGuard 0 (guard0 4 .refuse))) = false ∧
      lockCheck 2 (access0 .releaseWrite .four 4 6 (.paired pair))
        (waitingOf .releaseWrite .four 4 (paired pair)) = some .lockLost ∧
      lockCheck 2 (access0 .releaseWrite .four 4 6 (.paired pair))
        (lockedBy 2 .heldByPort none (waitingOf .releaseWrite .four 4 (paired pair))) = none ∧
      (waitingOf .write .four 4 (watched .refuse)).waitingAccess 2 =
        some (access0 .write .four 4 6 (.paired pair)) := by decide +kernel

theorem test_met_drain_write_fails :
    (draining (.writing rec0 15 [7]) (drained 1 (.lines [2]))).paired? (first 0) =
        some (window0 (drained 1 (.lines [2])), drained 1 (.lines [2])) ∧
      (draining (.writing rec0 15 [7]) (drained 0 (.lines [2]))).inStore
        ((drained 0 (.lines [2])).bankOffset .b + 15 * 256) 1 = true ∧ rec0.abandons = [] := by decide +kernel

/-! #### Invariants -/

/-- The one window of `timed none`, `watched` and `paired pair` is that of slot 0. -/
theorem only_slot0 {s : State} (hs : s.slots = (paired pair).slots) {j : SlotId} {v : Window}
    (h : (s.slot j).win = some v) : j = 0 ∧ v = window0 pair := by
  have hj : ((paired pair).slot j).win = some v := by
    rw [← h]; unfold State.slot; rw [hs]
  refine ⟨?_, only_window0 j v hj⟩
  have : ∀ j, j ≠ 0 → ((paired pair).slot j).win = none := by decide +kernel
  by_contra h0
  rw [this j h0] at hj; cases hj

theorem test_met_regions : RangesDisjoint (paired pair) ∧ RegionsDisjoint (paired pair) := by
  refine ⟨⟨?_, ?_⟩, ⟨?_, ?_⟩⟩
  · intro i w h
    rw [(only_slot0 rfl h).2]; decide +kernel
  · intro i j w v n h k
    exact absurd ((only_slot0 rfl h).1.trans (only_slot0 rfl k).1.symm) n
  · intro i w h
    rw [(only_slot0 rfl h).2]; decide +kernel
  · intro i j w v n h k
    exact absurd ((only_slot0 rfl h).1.trans (only_slot0 rfl k).1.symm) n

theorem test_met_guards : GuardsSound (watched .report) := by
  have only : ∀ i, i ≠ 0 → (watched .report).guard i = none := by decide +kernel
  have zero : (watched .report).guard 0 = some (guard0 4 .report) := by decide +kernel
  refine ⟨?_, ?_⟩
  · intro i g h
    by_cases h0 : i = 0
    · rw [h0, zero] at h
      cases h
      exact ⟨⟨window0 pair, by decide +kernel, by decide +kernel, by decide +kernel⟩, by decide, by decide,
        by decide⟩
    · rw [only i h0] at h; cases h
  · intro i j g k n h l
    by_cases h0 : i = 0
    · by_cases h1 : j = 0
      · exact absurd (h0.trans h1.symm) n
      · rw [only j h1] at l; cases l
    · rw [only i h0] at h; cases h

theorem test_met_drains_and_locks : DrainQueueSound (timed none) := by
  refine ⟨by decide +kernel, ?_, ?_⟩
  · intro h
    constructor
    · intro m; cases m
    · rintro ⟨w, hw, hd⟩
      unfold State.window? at hw
      split at hw
      · have : (window0 pair).draining = false := by decide +kernel
        rw [(only_slot0 rfl hw).2, this] at hd; cases hd
      · cases hw
  · intro h w p hp
    unfold State.paired? State.window? at hp
    split at hp
    · cases hp
    · rename_i v hv
      split at hv
      · rw [(only_slot0 rfl hv).2] at hp
        cases hp; decide
      · cases hv

/-- A part whose marks are counted, with a command waiting. -/
def counted : State := { paired copying with free := 8189, pending := [.storeAccessDone false] }

theorem test_met_marks : MarksConserved counted ∧ StoreCanonical counted ∧ (∃ t, step counted = .next t) :=
  ⟨by unfold MarksConserved; decide +kernel, rfl, _, rfl⟩

theorem test_met_grant : IdleBankSound ending ∧ GrantSound ending := by
  refine ⟨?_, ?_, ?_, ?_⟩
  · intro r h
    cases h
    exact ⟨window0 copying, copying, by decide +kernel, rfl⟩
  · intro h; cases h
  · intro _; rfl
  · have : ∀ p, ending.atStore p = false ∧ ending.grant ≠ some (.port p) := by decide +kernel
    intro p
    simp [this p]

theorem test_met_views : ViewsSound viewedMasked := by
  have slots : ∀ i, (viewedMasked.slot i).win = none ∨
      i = 0 ∧ (viewedMasked.slot i).win = some (window0 { pair with views := 1 }) ∨
      i = 1 ∧ (viewedMasked.slot i).win =
        some { window0 pair with base := 0x2000, writeMask := 0, body := .view (first 0) } := by
    decide +kernel
  refine ⟨?_, ?_, ?_⟩
  · intro i w src h hb
    rcases slots i with h0 | ⟨_, h1⟩ | ⟨_, h1⟩
    · rw [h0] at h; cases h
    · rw [h1] at h; cases h; cases hb
    · rw [h1] at h; cases h; cases hb
      exact ⟨rfl, window0 { pair with views := 1 }, { pair with views := 1 }, by decide +kernel, rfl⟩
  · intro h w p hp
    unfold State.paired? State.window? at hp
    split at hp
    · cases hp
    · rename_i v hv
      split at hv
      · rename_i hi
        rcases slots h.index with h0 | ⟨hj, h1⟩ | ⟨_, h1⟩
        · rw [h0] at hv; cases hv
        · rw [h1] at hv; cases hv; cases hp
          obtain ⟨j, k⟩ := h
          cases hj
          have : k = 1 := hi.symm.trans (show (viewedMasked.slot 0).inst = 1 by decide +kernel)
          rw [this]; decide +kernel
        · rw [h1] at hv; cases hv; cases hp
      · cases hv
  · intro r h; cases h

/-- Only the window in slot 0 of `ending` can have a working set. -/
theorem hasWork_ending {h : Handle} (hw : ending.hasWork h) : h = first 0 := by
  obtain ⟨w, p, hp, _⟩ := hw
  unfold State.paired? State.window? at hp
  split at hp
  · cases hp
  · rename_i v hv
    split at hv
    · rename_i hi
      have only : ∀ j, j ≠ 0 → (ending.slot j).win = none := by decide +kernel
      obtain ⟨j, k⟩ := h
      by_cases hj : j = 0
      · cases hj
        have : k = 1 := hi.symm.trans (show (ending.slot 0).inst = 1 by decide +kernel)
        rw [this]; rfl
      · rw [only j hj] at hv; cases hv
    · cases hv

theorem test_met_working_sets : WorkingSetsSound ending ∧ ending.hasWork (first 0) := by
  refine ⟨fun _ => ⟨?_, ?_, ?_, ?_⟩, window0 copying, copying, by decide +kernel, by decide⟩
  · intro h hw
    exact .inl ⟨rec0, rfl, (hasWork_ending hw).symm⟩
  · intro h; cases h
  · intro h; cases h
  · intro r h
    cases h
    exact ⟨⟨fun h => (by cases h), fun h => (by cases h)⟩, fun h => (by cases h), rfl, rfl, .inl rfl⟩

/-- With no window DRAINING and no lock, the drain queue empty keeps both laws. -/
theorem drains_and_locks_of_none {s : State} (hq : s.engine.drainQueue = [])
    (hd : ∀ i, (s.slot i).win.all (fun w => !w.draining) = true) (hl : ∀ p, s.lock p = none) :
    DrainsAndLocksSound s := by
  have free : ∀ i w, (s.slot i).win = some w → w.draining = false := by
    intro i w h
    have := hd i
    rw [h] at this
    simpa using this
  refine ⟨⟨by rw [hq]; exact List.nodup_nil, ?_, ?_⟩, ?_, ?_⟩
  · intro h
    rw [hq]
    constructor
    · intro m; cases m
    · rintro ⟨w, hw, hd⟩
      rw [free _ _ (window?_eq_some.1 hw).2] at hd; cases hd
  · intro h w p hp
    obtain ⟨hw, hb⟩ := paired?_eq_some.1 hp
    have := free _ _ (window?_eq_some.1 hw).2
    unfold Window.draining at this
    rw [hb] at this
    cases hp : p.drain <;> simp_all
  · intro p l h; rw [hl p] at h; cases h
  · intro p q l m h; rw [hl p] at h; cases h

theorem test_met_laws_together :
    DrainsAndLocksSound viewedMasked ∧ (∃ t, step viewedMasked = .next t) ∧ DrainsAndLocksSound ending ∧
      ∃ t, step ending = .next t :=
  ⟨drains_and_locks_of_none rfl (by decide +kernel) (by decide +kernel), ⟨_, rfl⟩,
    drains_and_locks_of_none rfl (by decide +kernel) (by decide +kernel), _, rfl⟩

end Sys2Proof.Tests
end

