-- ==== Sys2Proof/Proofs/GuardRange.lean ====
section
/-! The range check of a guard (R141): its comparisons read as numbers, the ranges of one value and of every
value, and the statement on the two readings. -/

namespace Sys2Proof.Machine

variable {g : HeldGuard} {v : Word}

/-! ### The check under each reading -/

theorem HeldGuard.admits_iff_of_unsigned (hs : g.sign = .unsigned) :
    g.admits v = true ↔ g.low.toNat ≤ v.toNat ∧ v.toNat ≤ g.high.toNat := by
  simp [HeldGuard.admits, hs, BitVec.ule]

theorem HeldGuard.admits_iff_of_signed (hs : g.sign = .signed) :
    g.admits v = true ↔ g.low.toInt ≤ v.toInt ∧ v.toInt ≤ g.high.toInt := by
  simp [HeldGuard.admits, hs, BitVec.sle]

/-- Both readings tell different words apart, so that a number between equal bounds is the bound's word. -/
theorem HeldGuard.admits_iff_eq_of_low_eq_high (hb : g.low = g.high) : g.admits v = true ↔ v = g.low := by
  cases hs : g.sign with
  | unsigned =>
    rw [HeldGuard.admits_iff_of_unsigned hs, ← hb, ← BitVec.toNat_inj]
    omega
  | signed =>
    rw [HeldGuard.admits_iff_of_signed hs, ← hb, ← BitVec.toInt_inj]
    omega

/-! ### The full range of each reading -/

theorem HeldGuard.admits_of_full_unsigned (hs : g.sign = .unsigned) (hl : g.low = 0)
    (hh : g.high = 0xFFFFFFFF#32) : g.admits v = true := by
  have le_top : v.toNat ≤ (0xFFFFFFFF#32).toNat := Nat.le_of_lt_succ v.isLt
  rw [HeldGuard.admits_iff_of_unsigned hs, hl, hh]
  exact ⟨Nat.zero_le _, le_top⟩

theorem HeldGuard.admits_of_full_signed (hs : g.sign = .signed) (hl : g.low = 0x80000000#32)
    (hh : g.high = 0x7FFFFFFF#32) : g.admits v = true := by
  have bottom_le : (0x80000000#32).toInt ≤ v.toInt := BitVec.le_toInt v
  have le_top : v.toInt ≤ (0x7FFFFFFF#32).toInt := Int.le_of_lt_add_one (BitVec.toInt_lt (x := v))
  rw [HeldGuard.admits_iff_of_signed hs, hl, hh]
  exact ⟨bottom_le, le_top⟩

/-! ### A value out of range -/

@[simp] theorem HeldGuard.trips_iff {act : GuardAction} :
    HeldGuard.trips act (g, v) = true ↔ g.action = act ∧ g.admits v = false := by
  simp [HeldGuard.trips]

end Sys2Proof.Machine

namespace Sys2Proof

open Machine

/-- Settles O25: each clause is the range check's lemma for its reading, its bounds, or its trip. -/
theorem guardRangeIsReadBySignedness : Obligations.GuardRangeIsReadBySignedness := fun _ _ =>
  ⟨HeldGuard.admits_iff_of_unsigned, HeldGuard.admits_iff_of_signed, HeldGuard.admits_iff_eq_of_low_eq_high,
    HeldGuard.admits_of_full_unsigned, HeldGuard.admits_of_full_signed, fun _ => HeldGuard.trips_iff⟩

end Sys2Proof
end

section
/-! The events, IRQ and the fault capture (R169 to R172): what each operation on the event and fault unit
does, said once, and the statements on the enable set and on FAULT_CLEAR. -/

namespace Sys2Proof.Machine

variable {s : State} {a : Word}

/-! ### The events and their bits -/

theorem Event.bit_lt (e : Event) : e.bit < 11 := by cases e <;> decide

/-- Every bit of an event set is some event's (11.5). -/
theorem Event.exists_bit_eq : ∀ i < 11, ∃ e : Event, e.bit = i
  | 0, _ => ⟨.passDone, rfl⟩
  | 1, _ => ⟨.stepDone, rfl⟩
  | 2, _ => ⟨.urgentDone, rfl⟩
  | 3, _ => ⟨.engineIdle, rfl⟩
  | 4, _ => ⟨.triggerLost, rfl⟩
  | 5, _ => ⟨.windowFreed, rfl⟩
  | 6, _ => ⟨.publishFault, rfl⟩
  | 7, _ => ⟨.accessFault, rfl⟩
  | 8, _ => ⟨.guardTrip, rfl⟩
  | 9, _ => ⟨.lockBroken, rfl⟩
  | 10, _ => ⟨.poolOverflow, rfl⟩

/-- A set of events is empty exactly when it has no event as a member. -/
theorem eventSet_ne_zero_iff {b : BitVec 11} : b ≠ 0 ↔ ∃ e : Event, b.getLsbD e.bit = true := by
  constructor
  · intro hb
    by_contra hnone
    refine hb (BitVec.eq_of_getLsbD_eq fun i hi => ?_)
    obtain ⟨e, rfl⟩ := Event.exists_bit_eq i hi
    simpa using fun h => hnone ⟨e, h⟩
  · rintro ⟨e, he⟩ rfl
    simp at he

@[simp] theorem Event.getLsbD_mask_bit (e : Event) : e.mask.getLsbD e.bit = true := by
  simp [Event.mask, e.bit_lt]

/-- Bits 31:11 of a word written to an event set are ignored, and no event has its bit there (R177). -/
@[simp] theorem Event.getLsbD_setWidth_bit (e : Event) (v : Word) :
    (v.setWidth 11).getLsbD e.bit = v.getLsbD e.bit := by
  simp [e.bit_lt]

/-! ### Raising an event and offering a fault -/

@[simp] theorem isPending_raise_same (e : Event) (s : State) : (raise e s).isPending e = true := by
  simp [raise, State.isPending]

@[simp] theorem raise_enabled (e : Event) (s : State) : (raise e s).events.enabled = s.events.enabled := rfl

/-- A fault offered with its event, in the words of the statements (R36, R74, R171). -/
theorem raise_offerFault (e : Event) (f : FaultRecord) (s : State) :
    raise e (offerFault f s) = { s with events := s.events.faulted e f } := by
  cases hc : s.events.capture <;> simp [offerFault, raise, EventUnit.faulted, hc]

/-- An empty capture takes the fault offered, and MORE stays as it was (R171). -/
theorem EventUnit.faulted_capture_of_empty {u : EventUnit} {e : Event} {f : FaultRecord} (h : u.capture = none) :
    (u.faulted e f).capture = some f := by
  simp [EventUnit.faulted, h]

theorem EventUnit.faulted_more_of_empty {u : EventUnit} {e : Event} {f : FaultRecord} (h : u.capture = none) :
    (u.faulted e f).more = u.more := by
  simp [EventUnit.faulted, h]

/-! ### IRQ and its summary -/

theorem irq_iff_irqSummary_ne_zero (h : s.inReset = none) : irq s = true ↔ irqSummary s ≠ 0 := by
  simp [irq, h]

theorem irq_iff_exists_pending_enabled (h : s.inReset = none) :
    irq s = true ↔ ∃ e : Event, s.isPending e = true ∧ s.events.enabled.getLsbD e.bit = true := by
  rw [irq_iff_irqSummary_ne_zero h, eventSet_ne_zero_iff]
  simp [irqSummary, State.isPending]

theorem irq_eq_false_of_enabled_eq_zero (h : s.events.enabled = 0) : irq s = false := by
  simp [irq, irqSummary, h]

/-! ### The register window -/

theorem registerRead_running (h : s.inReset = none) (a : Word) :
    registerRead s a = some (wordAt s (windowOffset a)) := by
  simp [registerRead, h]

theorem registerRead_enables (h : s.inReset = none) :
    registerRead s 0x054#32 = some (s.events.enabled.setWidth 32) := registerRead_running h _

theorem registerRead_irqSummary (h : s.inReset = none) :
    registerRead s 0x058#32 = some ((irqSummary s).setWidth 32) := registerRead_running h _

/-- IRQ is high exactly while the summary word is not 0: the word holds the whole set (R170). -/
theorem irq_iff_registerRead_irqSummary_ne (h : s.inReset = none) :
    irq s = true ↔ registerRead s 0x058#32 ≠ some 0 := by
  have hword : (irqSummary s).setWidth 32 = 0 ↔ irqSummary s = 0 := by
    refine ⟨fun h0 => ?_, fun h0 => by rw [h0]; rfl⟩
    simpa using congrArg (BitVec.setWidth 11) h0
  rw [irq_iff_irqSummary_ne_zero h, registerRead_irqSummary h, Ne, Ne, Option.some_inj, hword]

/-! ### The rows -/

theorem exec_eventEnableWrite (h : s.inReset = none) (v : Word) :
    exec (.eventEnableWrite v) s = .next (writeEnables v s) :=
  whenRunning_running (f := fun t => .next (writeEnables v t)) h

theorem exec_faultClear (h : s.inReset = none) (v : Word) :
    exec (.faultClear v) s = .next (clearFault v s) :=
  whenRunning_running (f := fun t => .next (clearFault v t)) h

/-- The offsets that operand words stand at are writable (R177). -/
theorem operandAt_eq_none {o : Nat} (h : offsetWritable o = false) : operandAt o = none := by
  simp only [offsetWritable, Bool.or_eq_false_iff, Bool.and_eq_false_iff, decide_eq_false_iff_not] at h
  obtain ⟨⟨⟨⟨-, hop⟩, -⟩, -⟩, -⟩ := h
  exact dif_neg (not_and_or.2 hop)

/-- A write to a read-only or unused word is discarded (R177). -/
theorem exec_registerWriteDiscarded (h : offsetWritable (windowOffset a) = false) :
    exec (.registerWriteDiscarded a v) s = .next s := by
  have hop := operandAt_eq_none h
  simp only [offsetWritable, Bool.or_eq_false_iff, beq_eq_false_iff_ne] at h
  obtain ⟨⟨⟨⟨hcmd, -⟩, hpend⟩, hen⟩, hclr⟩ := h
  show managementWrite a v s = .next s
  simp [managementWrite, hcmd, hpend, hen, hclr, hop]

theorem clearFault_one (s : State) :
    clearFault 1 s = { s with events := { s.events with capture := none, more := false } } := rfl

theorem clearFault_zero (s : State) : clearFault 0 s = s := rfl

/-! ### The two resets -/

/-- The event and fault unit as a reset of this cause leaves it (R174, R176). -/
def EventUnit.afterReset (cause : ResetCause) : EventUnit :=
  { pending := 0, enabled := 0, capture := none, more := false, retireReport := .zero, cause := cause }

@[simp] theorem EventUnit.afterReset_enabled (c : ResetCause) : (EventUnit.afterReset c).enabled = 0 := rfl
@[simp] theorem EventUnit.afterReset_capture (c : ResetCause) : (EventUnit.afterReset c).capture = none := rfl
@[simp] theorem EventUnit.afterReset_more (c : ResetCause) : (EventUnit.afterReset c).more = false := rfl

theorem restartCommand_events (s : State) : (restartCommand s).events = .afterReset .restart := by
  simp only [restartCommand]
  split <;> rfl

theorem exec_restart_events (h : s.accepts) (cnt : BitVec 8) :
    ∃ t, exec (.restart cnt) s = .next t ∧ t.events = .afterReset .restart :=
  ⟨_, takeCommand_accepts h, restartCommand_events _⟩

theorem exec_coldResetEnd_events (h : s.inReset ≠ none) (size : BitVec 2) (ports : BitVec 4) :
    ∃ t c, exec (.coldResetEnd size ports) s = .next t ∧ t.events = .afterReset (.ofCold c) := by
  obtain ⟨c, hc⟩ := Option.ne_none_iff_exists'.1 h
  refine ⟨.cold c size ports s.store s.fresh s.pending, c, ?_, rfl⟩
  show execColdResetEnd size ports s = _
  simp only [execColdResetEnd, hc]

end Sys2Proof.Machine

namespace Sys2Proof

open Machine

/-! ### The enable set and IRQ -/

/-- Settles O10: the write's equation, the membership in IRQ's summary, and the sets that a reset empties. -/
theorem enabledPendingEventsDriveIrq : Obligations.EnabledPendingEventsDriveIrq := by
  refine ⟨fun v s h => ?_, fun s h => ?_, fun e s => ?_, fun cnt s h => ?_, fun size ports s h => ?_⟩
  · exact ⟨writeEnables v s, exec_eventEnableWrite h v, rfl, registerRead_enables h,
      fun e => ⟨Event.getLsbD_setWidth_bit e v, rfl⟩⟩
  · exact ⟨irq_iff_exists_pending_enabled h, registerRead_irqSummary h, irq_iff_registerRead_irqSummary_ne h,
      fun v => exec_registerWriteDiscarded (by decide)⟩
  · exact ⟨isPending_raise_same e s, raise_enabled e s⟩
  · obtain ⟨t, ht, hev⟩ := exec_restart_events h cnt
    have hen : t.events.enabled = 0 := by simp [hev]
    exact ⟨t, ht, hen, irq_eq_false_of_enabled_eq_zero hen⟩
  · obtain ⟨t, c, ht, hev⟩ := exec_coldResetEnd_events h size ports
    have hen : t.events.enabled = 0 := by simp [hev]
    exact ⟨t, ht, hen, irq_eq_false_of_enabled_eq_zero hen⟩

/-! ### FAULT_CLEAR -/

/-- Settles O11: the equations of a write of 1 and of 0, a fault offered on either side of the clear, and the
capture that a reset empties. -/
theorem faultClearEmptiesTheCapture : Obligations.FaultClearEmptiesTheCapture := by
  refine ⟨fun s h => ?_, fun f e s h => ?_, fun f e s h => ?_, fun cnt s h => ?_, fun size ports s h => ?_⟩
  · rw [exec_faultClear h, exec_faultClear h, clearFault_one, clearFault_zero]
    exact ⟨rfl, rfl⟩
  · have hrun : (raise e (offerFault f s)).inReset = none := by rw [raise_offerFault]; exact h
    exact ⟨_, exec_faultClear hrun 1, rfl, rfl, isPending_raise_same e (offerFault f s)⟩
  · refine ⟨clearFault 1 s, exec_faultClear h 1, ?_, ?_, isPending_raise_same e _⟩
    · rw [raise_offerFault]; exact EventUnit.faulted_capture_of_empty rfl
    · rw [raise_offerFault]; exact EventUnit.faulted_more_of_empty rfl
  · obtain ⟨t, ht, hev⟩ := exec_restart_events h cnt
    exact ⟨t, ht, by simp [hev], by simp [hev]⟩
  · obtain ⟨t, c, ht, hev⟩ := exec_coldResetEnd_events h size ports
    exact ⟨t, ht, by simp [hev], by simp [hev]⟩

end Sys2Proof
end

section
/-! What each operation on the tables does, said once: the cases of marking, merging, flipping, freeing,
collecting and breaking a lock (R8, R46, R50, R55, R68, R124). -/

namespace Sys2Proof.Machine

/-! ### The line sets -/

/-- Marking a line changes nothing, makes D WHOLE with no mark free, or takes a mark for the line. -/
theorem markLine_cases (h : Handle) (n : Nat) (s : State) :
    markLine h n s = s ∨ ∃ w l, s.window? h = some w ∧ w.dirty? = some (.lines l) ∧ n ∉ l ∧
      (s.free = 0 ∧ markLine h n s = raise .poolOverflow
          (setFree (s.free + l.length) (s.setWindow h.index (w.setDirty .whole))) ∨
        s.free ≠ 0 ∧ markLine h n s =
          setFree (s.free - 1) (s.setWindow h.index (w.setDirty (.lines (insertLine n l))))) := by
  unfold markLine
  split
  · exact .inl rfl
  · rename_i w hw
    split
    · exact .inl rfl
    · exact .inl rfl
    · rename_i l hl
      by_cases hn : n ∈ l
      · exact .inl (if_pos hn)
      · rw [if_neg hn]
        refine .inr ⟨w, l, hw, hl, hn, ?_⟩
        split
        · exact .inl ⟨‹_›, rfl⟩
        · exact .inr ⟨‹_›, rfl⟩

/-- A merge changes nothing, or finds a W in a PAIRED window. -/
theorem mergeWork_cases (h : Handle) (s : State) :
    mergeWork h s = s ∨ ∃ w p k, s.paired? h = some (w, p) ∧ p.work = some k ∧
      mergeWork h s = setFree (s.free + (p.dirty.marks + k.set.marks - (p.dirty.union k.set).marks))
        (s.setPaired h.index w { p with dirty := p.dirty.union k.set, work := none }) := by
  cases hp : s.paired? h with
  | none => exact .inl (by simp [mergeWork, hp])
  | some x =>
    obtain ⟨w, p⟩ := x
    cases hk : p.work with
    | none => exact .inl (by simp [mergeWork, hp, hk])
    | some k => exact .inr ⟨w, p, k, rfl, hk, mergeWork_eq hp hk⟩

/-- A flip leaves the unit READY, and flips the PAIRED window that has a W. -/
theorem flip_cases (r : PublishRecord) (s : State) :
    flip r s = unitReady s ∨ ∃ w p k, s.paired? r.handle = some (w, p) ∧ p.work = some k ∧
      flip r s = unitReady (setFree (s.free + p.carry.marks)
        (s.setPaired r.handle.index w (p.flipTo r.idle k))) := by
  cases hp : s.paired? r.handle with
  | none => exact .inl (by simp [flip, hp])
  | some x =>
    obtain ⟨w, p⟩ := x
    cases hk : p.work with
    | none => exact .inl (by simp [flip, hp, hk])
    | some k => exact .inr ⟨w, p, k, rfl, hk, by simp [flip, hp, hk]⟩

theorem setCopyPosition_cases (h : Handle) (n : Nat) (s : State) :
    setCopyPosition h n s = s ∨ ∃ w p k, s.paired? h = some (w, p) ∧ p.work = some k ∧
      setCopyPosition h n s = s.setPaired h.index w { p with work := some { k with pos := n } } := by
  cases hp : s.paired? h with
  | none => exact .inl (by simp [setCopyPosition, hp])
  | some x =>
    obtain ⟨w, p⟩ := x
    cases hk : p.work with
    | none => exact .inl (by simp [setCopyPosition, hp, hk])
    | some k => exact .inr ⟨w, p, k, rfl, hk, setCopyPosition_eq n hp hk⟩

/-- COLLECT changes the command unit alone, or takes from the D of a TRACKED window. -/
theorem collectCommand_cases (s : State) :
    (∃ st, collectCommand s = refuseCommand st s) ∨ ∃ h w live, s.window? h = some w ∧
      (w.body = .tracked live .whole ∧ collectCommand s = complete .done (collectWords [] true 0)
          (s.setWindow h.index { w with body := .tracked live (.lines []) }) ∨
        ∃ l, w.body = .tracked live (.lines l) ∧ collectCommand s =
          complete .done (collectWords (l.take 16) false (l.drop 16).length)
            (setFree (s.free + (l.take 16).length)
              (s.setWindow h.index { w with body := .tracked live (.lines (l.drop 16)) }))) := by
  unfold collectCommand
  split
  · exact .inl ⟨_, rfl⟩
  · rename_i h w hw
    have hm := (oprWindow_eq_some hw).2
    split
    · exact .inl ⟨_, rfl⟩
    · exact .inl ⟨_, rfl⟩
    · exact .inl ⟨_, rfl⟩
    · exact .inr ⟨h, w, _, hm, .inl ⟨‹_›, rfl⟩⟩
    · exact .inr ⟨h, w, _, hm, .inr ⟨_, ‹_›, rfl⟩⟩

/-! ### Freeing a window -/

/-- A freed view takes one from the view count of a source that is there. -/
theorem dropView_cases (w : Window) (s : State) :
    dropView w s = s ∨ ∃ src v p, w.body = .view src ∧ s.paired? src = some (v, p) ∧
      dropView w s = s.setPaired src.index v { p with views := p.views - 1 } := by
  unfold dropView
  split
  · rename_i src hb
    split
    · exact .inl rfl
    · exact .inr ⟨_, _, _, hb, ‹_›, rfl⟩
  · exact .inl rfl
  · exact .inl rfl
  · exact .inl rfl

/-- The slot made FREE, with its marks, guards and place in the drain queue given back, before a view's
source is told. -/
def State.emptied (s : State) (h : Handle) (w : Window) : State :=
  { setFree (s.free + w.marks) (s.setSlot h.index { s.slot h.index with win := none }) with
    guards := s.guards.map (keepGuard h),
    engine := { s.engine with drainQueue := s.engine.drainQueue.filter (· ≠ h) } }

theorem freeWindow_unmatched {s : State} {h : Handle} (hw : s.window? h = none) : freeWindow h s = s := by
  simp [freeWindow, hw]

theorem freeWindow_matched {s : State} {h : Handle} {w : Window} (hw : s.window? h = some w) :
    freeWindow h s = dropView w (s.emptied h w) := window?_freed hw

theorem slot_emptied (s : State) (h : Handle) (w : Window) (i : SlotId) :
    (s.emptied h w).slot i = if h.index = i then { s.slot h.index with win := none } else s.slot i :=
  slot_setSlot _ _ _ _

/-- After a freeing no handle matches the slot. -/
theorem window?_emptied {s : State} {h : Handle} {w : Window} (hw : s.window? h = some w) (x : Handle) :
    (s.emptied h w).window? x = if x = h then none else s.window? x := by
  obtain ⟨hinst, hwin⟩ := window?_eq_some.1 hw
  unfold State.window?
  rw [slot_emptied]
  by_cases hi : h.index = x.index
  · rw [if_pos hi]
    by_cases hx : x = h
    · simp [hx]
    · have hn : (s.slot x.index).inst ≠ x.inst := by
        intro he
        refine hx ?_
        rw [← hi, hinst] at he
        cases x; cases h; simp_all
      simp [hx, hn]
  · have hx : x ≠ h := fun e => hi (by rw [e])
    rw [if_neg hi, if_neg hx]

theorem guard_emptied (s : State) (h : Handle) (w : Window) (i : GuardId) :
    (s.emptied h w).guard i = keepGuard h (s.guard i) := by
  simp [State.guard, State.emptied]

/-! ### Breaking a lock -/

theorem unlockNotice_locks (h : Handle) (s : State) : (unlockNotice h s).locks = s.locks := by
  rw [unlockNotice_eq]

/-- A broken lock leaves everything but the lock table, the continues and the events. -/
theorem breakLock_only (p : PortId) (s : State) :
    breakLock p s = { s with locks := (breakLock p s).locks, continues := (breakLock p s).continues,
                             events := (breakLock p s).events } := by
  cases hl : s.lock p with
  | none => simp [breakLock, hl]
  | some l => rw [breakLock_eq hl]

theorem breakWindowLock_only (h : Handle) (s : State) :
    breakWindowLock h s = { s with locks := (breakWindowLock h s).locks,
                                   continues := (breakWindowLock h s).continues,
                                   events := (breakWindowLock h s).events } := by
  unfold breakWindowLock
  split
  · rfl
  · exact breakLock_only _ _

theorem lock_breakLock (p q : PortId) (s : State) :
    (breakLock p s).lock q = if p = q then none else s.lock q := by
  cases hl : s.lock p with
  | none =>
    have : breakLock p s = s := by simp [breakLock, hl]
    rw [this]
    split
    · rename_i e; rw [← e, hl]
    · rfl
  | some l =>
    rw [← lock_setLock, breakLock_eq hl]
    rfl

/-! ### Whole tables -/

@[simp] theorem slot_mapped (f : Slot → Slot) (s : State) (i : SlotId) :
    ({ s with slots := s.slots.map f } : State).slot i = f (s.slot i) := by
  simp [State.slot]

theorem slot_restartEvent (s : State) (i : SlotId) : (restartEvent s).slot i = restartSlot (s.slot i) := by
  simp [restartEvent, State.slot]

theorem guard_restartEvent (s : State) (i : GuardId) : (restartEvent s).guard i = restartGuard s (s.guard i) := by
  simp [restartEvent, State.guard]

theorem slot_cold (c : ColdCause) (z : BitVec 2) (p : BitVec 4) (m : List Host.Cell) (f : Nat) (q : List Instr)
    (i : SlotId) : (State.cold c z p m f q).slot i = { inst := 0, win := none } := by
  simp [State.cold, State.slot]

theorem guard_cold (c : ColdCause) (z : BitVec 2) (p : BitVec 4) (m : List Host.Cell) (f : Nat) (q : List Instr)
    (i : GuardId) : (State.cold c z p m f q).guard i = none := by
  simp [State.cold, State.guard]

theorem lock_cold (c : ColdCause) (z : BitVec 2) (p : BitVec 4) (m : List Host.Cell) (f : Nat) (q : List Instr)
    (i : PortId) : (State.cold c z p m f q).lock i = none := by
  simp [State.cold, State.lock]

theorem lock_restartEvent (s : State) (p : PortId) : (restartEvent s).lock p = none := by
  simp [restartEvent, State.lock]

end Sys2Proof.Machine
end

section
/-! O51 and O52: the store's canonical form (log 6) and the conservation of marks (R45), each by giving its
`Kept`. -/

namespace Sys2Proof.Machine

/-! ### The store -/

theorem StoreCanonical.of_store_eq {s t : State} (h : t.store = s.store) (hs : StoreCanonical s) :
    StoreCanonical t := by
  unfold StoreCanonical at *
  rwa [h]

theorem markLine_store (h : Handle) (n : Nat) (s : State) : (markLine h n s).store = s.store := by
  rcases markLine_cases h n s with e | ⟨w, l, -, -, -, ⟨-, e⟩ | ⟨-, e⟩⟩ <;> rw [e] <;> simp

theorem mergeWork_store (h : Handle) (s : State) : (mergeWork h s).store = s.store := by
  rcases mergeWork_cases h s with e | ⟨w, p, k, -, -, e⟩ <;> rw [e]
  simp

theorem flip_store (r : PublishRecord) (s : State) : (flip r s).store = s.store := by
  rcases flip_cases r s with e | ⟨w, p, k, -, -, e⟩ <;> rw [e] <;> simp

theorem setCopyPosition_store (h : Handle) (n : Nat) (s : State) : (setCopyPosition h n s).store = s.store := by
  rcases setCopyPosition_cases h n s with e | ⟨w, p, k, -, -, e⟩ <;> rw [e]
  simp

theorem collectCommand_store (s : State) : (collectCommand s).store = s.store := by
  rcases collectCommand_cases s with ⟨st, e⟩ | ⟨h, w, live, -, ⟨-, e⟩ | ⟨l, -, e⟩⟩ <;> rw [e] <;>
    simp [refuseCommand]

theorem freeWindow_store (h : Handle) (s : State) : (freeWindow h s).store = s.store := by
  cases hw : s.window? h with
  | none => rw [freeWindow_unmatched hw]
  | some w =>
    rw [freeWindow_matched hw]
    rcases dropView_cases w (s.emptied h w) with e | ⟨src, v, p, -, -, e⟩ <;> rw [e] <;> rfl

theorem breakWindowLock_store (h : Handle) (s : State) : (breakWindowLock h s).store = s.store := by
  rw [breakWindowLock_only]

theorem kept_storeCanonical : Kept StoreCanonical where
  same h := .of_store_eq h.store
  store a bs hs := Memory.wf_write bs a hs
  mark h n := .of_store_eq (markLine_store h n _)
  fill _ _ hs _ _ := hs
  views _ hs _ := hs
  rights _ _ _ hs _ := hs
  take hs _ _ := hs
  unit _ hs _ := hs
  flip r := .of_store_eq (flip_store r _)
  merge h := .of_store_eq (mergeWork_store h _)
  position h n := .of_store_eq (setCopyPosition_store h n _)
  enter hs _ _ _ := hs
  requeue hs _ _ _ := hs
  pop hs _ _ := hs
  free h hs _ _ := hs.of_store_eq (freeWindow_store h _)
  freeBroken h hs _ :=
    hs.of_store_eq ((freeWindow_store h _).trans (breakWindowLock_store h _))
  unlock _ hs := hs
  relock _ _ hs _ := hs
  lock _ hs _ _ _ _ _ := hs
  guardFill _ _ hs _ _ _ _ _ := hs
  guardDrop _ hs := hs
  guardTrip _ hs _ := hs
  collect := .of_store_eq (collectCommand_store _)
  restart hs := hs
  cold _ _ _ _ _ hs := hs

/-! ### The marks -/

/-- The conservation is kept where the free count and the marks held change together. -/
theorem MarksConserved.of_balance {s t : State} (h : t.free + t.marksHeld = s.free + s.marksHeld)
    (hs : MarksConserved s) : MarksConserved t := h.trans hs

theorem MarksConserved.of_tables_eq {s t : State} (hs : MarksConserved s) (hf : t.free = s.free)
    (hm : t.marksHeld = s.marksHeld) : MarksConserved t :=
  hs.of_balance (by rw [hf, hm])

theorem MarksConserved.of_tables {s t : State} (hf : t.free = s.free) (h : t.slots = s.slots)
    (hs : MarksConserved s) : MarksConserved t :=
  hs.of_tables_eq hf (marksHeld_congr h)

theorem marks_setDirty {w : Window} {l d : LineSet} (h : w.dirty? = some l) :
    (w.setDirty d).marks + l.marks = w.marks + d.marks := by
  unfold Window.dirty? at h
  unfold Window.setDirty Window.marks
  split at h <;> simp_all
  all_goals omega

/-- Replacing the PAIRED fields of a window with as many marks. -/
theorem MarksConserved.of_setPaired {s t : State} {h : Handle} {w : Window} {p p' : Paired}
    (hp : s.paired? h = some (w, p)) (ht : t.slots = (s.setPaired h.index w p').slots)
    (hm : t.free + (p'.dirty.marks + workMarks p'.work + p'.carry.marks) =
      s.free + (p.dirty.marks + workMarks p.work + p.carry.marks)) :
    MarksConserved s → MarksConserved t := by
  have e := marksHeld_setPaired p' hp
  rw [← marksHeld_congr ht] at e
  exact .of_balance (by omega)

/-- Replacing a window whose marks go to or come from the free count. -/
theorem MarksConserved.of_setWindow {s t : State} {h : Handle} {w v : Window} (hw : s.window? h = some w)
    (ht : t.slots = (s.setWindow h.index v).slots) (hm : t.free + v.marks = s.free + w.marks) :
    MarksConserved s → MarksConserved t := by
  have e := marksHeld_setWindow v (window?_eq_some.1 hw).2
  rw [← marksHeld_congr ht] at e
  exact .of_balance (by omega)

theorem MarksConserved.markLine {s : State} (h : Handle) (n : Nat) (hs : MarksConserved s) :
    MarksConserved (markLine h n s) := by
  rcases markLine_cases h n s with e | ⟨w, l, hw, hd, hn, ⟨h0, e⟩ | ⟨h0, e⟩⟩ <;> rw [e]
  · exact hs
  · have hm := marks_setDirty (d := .whole) hd
    refine .of_setWindow hw rfl ?_ hs
    simp only [LineSet.marks] at hm
    show s.free + l.length + _ = _
    omega
  · have hm := marks_setDirty (d := .lines (insertLine n l)) hd
    refine .of_setWindow hw rfl ?_ hs
    simp only [LineSet.marks, length_insertLine hn] at hm
    show s.free - 1 + _ = _
    omega

theorem MarksConserved.flip {s : State} (r : PublishRecord) (hs : MarksConserved s) :
    MarksConserved (flip r s) := by
  rcases flip_cases r s with e | ⟨w, p, k, hp, hk, e⟩ <;> rw [e]
  · exact hs
  · refine .of_setPaired hp rfl ?_ hs
    show s.free + p.carry.marks + (p.dirty.marks + 0 + k.set.marks) = _
    rw [hk]
    simp only [workMarks]
    omega

theorem MarksConserved.mergeWork {s : State} (h : Handle) (hs : MarksConserved s) :
    MarksConserved (mergeWork h s) := by
  rcases mergeWork_cases h s with e | ⟨w, p, k, hp, hk, e⟩ <;> rw [e]
  · exact hs
  · have hle := marks_union_le p.dirty k.set
    refine .of_setPaired hp rfl ?_ hs
    show s.free + (p.dirty.marks + k.set.marks - (p.dirty.union k.set).marks) +
      ((p.dirty.union k.set).marks + 0 + p.carry.marks) = _
    rw [hk]
    simp only [workMarks]
    omega

theorem MarksConserved.setCopyPosition {s : State} (h : Handle) (n : Nat) (hs : MarksConserved s) :
    MarksConserved (setCopyPosition h n s) := by
  rcases setCopyPosition_cases h n s with e | ⟨w, p, k, hp, hk, e⟩ <;> rw [e]
  · exact hs
  · exact .of_setPaired hp rfl (by rw [hk]; rfl) hs

theorem MarksConserved.collectCommand {s : State} (hs : MarksConserved s) :
    MarksConserved (collectCommand s) := by
  rcases collectCommand_cases s with ⟨st, e⟩ | ⟨h, w, live, hw, ⟨hb, e⟩ | ⟨l, hb, e⟩⟩ <;> rw [e]
  · exact hs
  · exact .of_setWindow hw rfl (by simp [Window.marks, hb, LineSet.marks]) hs
  · refine .of_setWindow hw rfl ?_ hs
    show s.free + (l.take 16).length + (l.drop 16).length = s.free + w.marks
    have := congrArg List.length (List.take_append_drop 16 l)
    rw [List.length_append] at this
    simp only [Window.marks, hb, LineSet.marks]
    omega

theorem MarksConserved.dropView {s : State} (w : Window) (hs : MarksConserved s) :
    MarksConserved (dropView w s) := by
  rcases dropView_cases w s with e | ⟨src, v, p, -, hp, e⟩ <;> rw [e]
  · exact hs
  · exact .of_setPaired hp rfl rfl hs

theorem marksHeld_emptied {s : State} {h : Handle} {w : Window} (hw : s.window? h = some w) :
    (s.emptied h w).marksHeld + w.marks = s.marksHeld := by
  have e := marksHeld_setSlot h.index { inst := (s.slot h.index).inst, win := none } s
  rw [slot_marks_of_win (window?_eq_some.1 hw).2] at e
  rw [marksHeld_congr (t := s.emptied h w)
    (s := s.setSlot h.index { inst := (s.slot h.index).inst, win := none }) rfl, e]
  exact Nat.add_zero _

theorem marksHeld_fillSlot {s : State} {i : SlotId} {w : Window} (hi : (s.slot i).win = none) :
    (fillSlot i w s).marksHeld = s.marksHeld + w.marks := by
  have e := marksHeld_setSlot i { inst := (s.slot i).inst + 1, win := some w } s
  have hz : (s.slot i).marks = 0 := by simp [Slot.marks, hi]
  have hm : Slot.marks { inst := (s.slot i).inst + 1, win := some w } = w.marks := rfl
  have hslots : (fillSlot i w s).marksHeld =
      (s.setSlot i { inst := (s.slot i).inst + 1, win := some w }).marksHeld := marksHeld_congr rfl
  omega

theorem MarksConserved.freeWindow {s : State} (h : Handle) (hs : MarksConserved s) :
    MarksConserved (freeWindow h s) := by
  cases hw : s.window? h with
  | none =>
    rw [freeWindow_unmatched hw]
    exact hs
  | some w =>
    rw [freeWindow_matched hw]
    have hslots := marksHeld_emptied hw
    have hfree : (s.emptied h w).free = s.free + w.marks := rfl
    have hbalance : (s.emptied h w).free + (s.emptied h w).marksHeld = s.free + s.marksHeld := by omega
    have hemptied : MarksConserved (s.emptied h w) := hbalance.trans hs
    exact hemptied.dropView w

theorem MarksConserved.breakWindowLock {s : State} (h : Handle) (hs : MarksConserved s) :
    MarksConserved (breakWindowLock h s) := by
  rw [breakWindowLock_only]
  exact .of_tables rfl rfl hs

/-- A window filled anew or FREE holds no marks. -/
theorem marksConserved_of_empty {s : State} (hf : s.free = Config.poolSize) (h : ∀ i, (s.slot i).marks = 0) :
    MarksConserved s := by
  unfold MarksConserved
  rw [hf, marksHeld_eq_sum]
  simp [h]

theorem marks_restartSlot (x : Slot) : (restartSlot x).marks = 0 := by
  unfold restartSlot
  cases hx : x.win with
  | none => simp [Slot.marks, hx]
  | some w =>
    dsimp only
    split
    · rfl
    · show (restartWindow w).marks = 0
      unfold restartWindow Window.marks
      cases hb : w.body <;> simp [hb, LineSet.marks, workMarks]

theorem kept_marksConserved : Kept MarksConserved where
  same h := .of_tables h.free h.slots
  store a bs hs := hs
  mark h n := .markLine h n
  fill i w hs hi hw := hs.of_tables_eq rfl (by rw [marksHeld_fillSlot hi, hw.marks, Nat.add_zero])
  views _ hs hp := hs.of_setPaired hp rfl rfl
  rights _ _ _ hs hw := hs.of_setWindow hw rfl rfl
  take {s h w p} hs _ hp := hs.of_setPaired hp rfl (congrArg (s.free + ·) (marks_take p))
  unit _ hs _ := hs
  flip r := .flip r
  merge h := .mergeWork h
  position h n := .setCopyPosition h n
  enter hs hp _ _ := hs.of_setPaired hp rfl rfl
  requeue hs _ hp _ := hs.of_setPaired hp rfl rfl
  pop hs _ _ := hs
  free h hs _ _ := hs.freeWindow h
  freeBroken h hs _ := (hs.breakWindowLock h).freeWindow h
  unlock _ hs := hs
  relock _ _ hs _ := hs
  lock _ hs _ _ _ _ _ := hs
  guardFill _ _ hs _ _ _ _ _ := hs
  guardDrop _ hs := hs
  guardTrip _ hs _ := hs
  collect := .collectCommand
  restart _ := marksConserved_of_empty rfl fun i => by rw [slot_restartEvent]; exact marks_restartSlot _
  cold c z p f q _ := marksConserved_of_empty rfl fun i => by rw [slot_cold]; rfl

end Sys2Proof.Machine

namespace Sys2Proof

open Machine

/-- Settles O51: the store's own changes are writes of bytes, which keep the form. -/
theorem stepKeepsTheStoreCanonical : Obligations.StepKeepsTheStoreCanonical :=
  fun _ _ hs ht => kept_storeCanonical.step hs _ ht

/-- Settles O52: every change of a set gives or takes as many marks as it frees or holds. -/
theorem stepConservesTheMarks : Obligations.StepConservesTheMarks :=
  fun _ _ hs ht => kept_marksConserved.step hs _ ht

end Sys2Proof
end

section
/-! Two states whose windows agree in some of their fields: what the operations on line sets, banks, rights
and drains leave of every window (R2). -/

namespace Sys2Proof.Machine

/-! ### The fields that the laws read -/

/-- A window's place: its range, its kind and its store regions. -/
structure Frame where
  base : Word
  pages : Nat
  kind : Kind
  regions : List Nat

def Window.frame (w : Window) : Frame :=
  { base := w.base, pages := w.pages, kind := w.kind, regions := w.regions }

/-- The drain attempts, present exactly for a DRAINING window. -/
def Window.drain? (w : Window) : Option Nat :=
  match w.body with
  | .plain _ => none
  | .tracked _ _ => none
  | .paired p => p.drain
  | .view _ => none

/-- The current bank of a PAIRED window. -/
def Window.current? (w : Window) : Option Bank :=
  match w.body with
  | .plain _ => none
  | .tracked _ _ => none
  | .paired p => some p.current
  | .view _ => none

/-- What a change of the line sets leaves of a window. -/
structure Outline where
  frame : Frame
  drain : Option Nat
  current : Option Bank

def Window.outline (w : Window) : Outline :=
  { frame := w.frame, drain := w.drain?, current := w.current? }

theorem Window.draining_eq (w : Window) : w.draining = w.drain?.isSome := by
  unfold Window.draining Window.drain?
  cases w.body <;> rfl

theorem Window.drain?_paired {w : Window} {p : Paired} (h : w.body = .paired p) : w.drain? = p.drain := by
  simp [Window.drain?, h]

theorem Window.current?_eq_some {w : Window} {bank : Bank} :
    w.current? = some bank ↔ ∃ p, w.body = .paired p ∧ p.current = bank := by
  unfold Window.current?
  cases hb : w.body <;> simp

theorem outline_setDirty (w : Window) (d : LineSet) : (w.setDirty d).outline = w.outline := by
  unfold Window.setDirty
  cases hb : w.body <;>
    simp [Window.outline, Window.frame, Window.kind, Window.regions, Window.drain?, Window.current?, hb]

/-- A change of the PAIRED fields that keeps the regions keeps the frame. -/
theorem frame_paired {w : Window} {p p' : Paired} (hb : w.body = .paired p)
    (hr : [p'.live, p'.bankA, p'.bankB] = [p.live, p.bankA, p.bankB]) :
    Window.frame { w with body := .paired p' } = w.frame := by
  obtain ⟨hl, hA, hB⟩ : p'.live = p.live ∧ p'.bankA = p.bankA ∧ p'.bankB = p.bankB := by simpa using hr
  simp [Window.frame, Window.kind, Window.regions, hb, hl, hA, hB]

theorem outline_paired {w : Window} {p p' : Paired} (hb : w.body = .paired p)
    (hr : [p'.live, p'.bankA, p'.bankB] = [p.live, p.bankA, p.bankB]) (hd : p'.drain = p.drain)
    (hc : p'.current = p.current) : Window.outline { w with body := .paired p' } = w.outline := by
  simp [Window.outline, frame_paired hb hr, Window.drain?, Window.current?, hb, hd, hc]

/-! ### Agreement -/

/-- The slots of the two states have the same instances and windows of the same `f`. -/
def Agree {α : Type} (f : Window → α) (s t : State) : Prop :=
  ∀ i, (t.slot i).inst = (s.slot i).inst ∧ (t.slot i).win.map f = (s.slot i).win.map f

section
variable {α β : Type} {f : Window → α} {s t u : State}

theorem Agree.of_slots (h : t.slots = s.slots) : Agree f s t := fun i => by
  rw [slot_congr h]
  exact ⟨rfl, rfl⟩

theorem Agree.trans (h : Agree f s t) (k : Agree f t u) : Agree f s u := fun i =>
  ⟨(k i).1.trans (h i).1, (k i).2.trans (h i).2⟩

theorem Agree.symm (h : Agree f s t) : Agree f t s := fun i => ⟨(h i).1.symm, (h i).2.symm⟩

theorem Agree.map (g : α → β) (h : Agree f s t) : Agree (fun w => g (f w)) s t := fun i => by
  refine ⟨(h i).1, ?_⟩
  have := congrArg (Option.map g) (h i).2
  rwa [Option.map_map, Option.map_map] at this

/-- A window after the change stood there before it. -/
theorem Agree.win (h : Agree f s t) {i : SlotId} {w : Window} (hw : (t.slot i).win = some w) :
    ∃ v, (s.slot i).win = some v ∧ f v = f w := by
  have := (h i).2
  rw [hw, Option.map_some] at this
  simpa using this.symm

theorem Agree.window? (h : Agree f s t) {x : Handle} {w : Window} (hw : t.window? x = some w) :
    ∃ v, s.window? x = some v ∧ f v = f w := by
  obtain ⟨hi, hw⟩ := window?_eq_some.1 hw
  obtain ⟨v, hv, e⟩ := h.win hw
  exact ⟨v, window?_eq_some.2 ⟨(h x.index).1.symm.trans hi, hv⟩, e⟩

theorem agree_setWindow {i : SlotId} {w v : Window} (hw : (s.slot i).win = some w) (hf : f v = f w) :
    Agree f s (s.setWindow i v) := fun j => by
  rw [slot_setWindow]
  split
  · rename_i e
    subst e
    simp [hw, hf]
  · exact ⟨rfl, rfl⟩

theorem agree_setPaired {h : Handle} {w : Window} {p p' : Paired} (hp : s.paired? h = some (w, p))
    (hf : f { w with body := .paired p' } = f w) : Agree f s (s.setPaired h.index w p') :=
  agree_setWindow (window?_eq_some.1 (paired?_eq_some.1 hp).1).2 hf

end

/-! ### What a handle matches after one window has changed -/

theorem Handle.eq_of_matched {s : State} {h x : Handle} (hi : h.index = x.index)
    (hh : (s.slot h.index).inst = h.inst) (hx : (s.slot x.index).inst = x.inst) : x = h := by
  rw [← hi, hh] at hx
  cases x; cases h; simp_all

theorem window?_setWindow {s : State} {h : Handle} {w : Window} (v : Window) (hw : s.window? h = some w)
    (x : Handle) : (s.setWindow h.index v).window? x = if x = h then some v else s.window? x := by
  obtain ⟨hinst, hwin⟩ := window?_eq_some.1 hw
  unfold State.window?
  rw [slot_setWindow]
  by_cases hi : h.index = x.index
  · rw [if_pos hi]
    by_cases hx : x = h
    · simp [hx, hinst]
    · have hn : (s.slot x.index).inst ≠ x.inst := fun he => hx (Handle.eq_of_matched hi hinst he)
      have hn' : (s.slot h.index).inst ≠ x.inst := by rw [hi]; exact hn
      simp [hx, hn, hn']
  · have hx : x ≠ h := fun e => hi (by rw [e])
    rw [if_neg hi, if_neg hx]

theorem window?_setPaired {s : State} {h : Handle} {w : Window} {p : Paired} (p' : Paired)
    (hp : s.paired? h = some (w, p)) (x : Handle) :
    (s.setPaired h.index w p').window? x =
      if x = h then some { w with body := .paired p' } else s.window? x :=
  window?_setWindow _ (paired?_eq_some.1 hp).1 x

theorem slot_fillSlot (i j : SlotId) (w : Window) (s : State) :
    (fillSlot i w s).slot j = if i = j then { inst := (s.slot i).inst + 1, win := some w } else s.slot j :=
  slot_setSlot _ _ _ _

/-- A window that a handle matches is not in a FREE slot, so a filling leaves it. -/
theorem window?_fillSlot {s : State} {i : SlotId} (w : Window) {x : Handle} {v : Window}
    (hi : (s.slot i).win = none) (hx : s.window? x = some v) : (fillSlot i w s).window? x = some v := by
  obtain ⟨hinst, hwin⟩ := window?_eq_some.1 hx
  have hne : i ≠ x.index := by rintro rfl; rw [hi] at hwin; cases hwin
  rw [window?_eq_some, slot_fillSlot, if_neg hne]
  exact ⟨hinst, hwin⟩

/-- After a filling, a handle matches what it matched before or the window filled. -/
theorem window?_of_fillSlot {s : State} {i : SlotId} {w : Window} {x : Handle} {v : Window}
    (hx : (fillSlot i w s).window? x = some v) :
    x.index = i ∧ v = w ∨ x.index ≠ i ∧ s.window? x = some v := by
  obtain ⟨hinst, hwin⟩ := window?_eq_some.1 hx
  rw [slot_fillSlot] at hinst hwin
  by_cases hi : i = x.index
  · rw [if_pos hi] at hwin
    exact .inl ⟨hi.symm, (Option.some.inj hwin).symm⟩
  · rw [if_neg hi] at hinst hwin
    exact .inr ⟨fun e => hi e.symm, window?_eq_some.2 ⟨hinst, hwin⟩⟩

theorem window?_restartEvent (s : State) (x : Handle) :
    (restartEvent s).window? x =
      (s.window? x).bind fun w => if w.draining then none else some (restartWindow w) := by
  unfold State.window?
  rw [slot_restartEvent]
  unfold restartSlot
  cases hw : (s.slot x.index).win with
  | none => simp [hw]
  | some w =>
    by_cases hi : (s.slot x.index).inst = x.inst <;> by_cases hd : w.draining = true <;> simp [hi, hd]

/-! ### The operations -/

theorem agree_markLine (h : Handle) (n : Nat) (s : State) : Agree Window.outline s (markLine h n s) := by
  rcases markLine_cases h n s with e | ⟨w, l, hw, -, -, ⟨-, e⟩ | ⟨-, e⟩⟩ <;> rw [e]
  · exact .of_slots rfl
  · exact (agree_setWindow (window?_eq_some.1 hw).2 (outline_setDirty w _)).trans (.of_slots rfl)
  · exact (agree_setWindow (window?_eq_some.1 hw).2 (outline_setDirty w _)).trans (.of_slots rfl)

theorem agree_mergeWork (h : Handle) (s : State) : Agree Window.outline s (mergeWork h s) := by
  rcases mergeWork_cases h s with e | ⟨w, p, k, hp, -, e⟩ <;> rw [e]
  · exact .of_slots rfl
  · exact (agree_setPaired (p' := { p with dirty := p.dirty.union k.set, work := none }) hp
      (outline_paired (paired?_eq_some.1 hp).2 rfl rfl rfl)).trans (.of_slots rfl)

theorem agree_setCopyPosition (h : Handle) (n : Nat) (s : State) :
    Agree Window.outline s (setCopyPosition h n s) := by
  rcases setCopyPosition_cases h n s with e | ⟨w, p, k, hp, -, e⟩ <;> rw [e]
  · exact .of_slots rfl
  · exact agree_setPaired hp (outline_paired (paired?_eq_some.1 hp).2 rfl rfl rfl)

theorem agree_take {s : State} {h : Handle} {w : Window} {p : Paired} (hp : s.paired? h = some (w, p)) :
    Agree Window.outline s (s.setPaired h.index w p.take) := by
  refine agree_setPaired hp (outline_paired (paired?_eq_some.1 hp).2 ?_ ?_ (Kept.take_current p)) <;>
    (unfold Paired.take; split <;> rfl)

theorem agree_collectCommand (s : State) : Agree Window.outline s (collectCommand s) := by
  rcases collectCommand_cases s with ⟨st, e⟩ | ⟨h, w, live, hw, ⟨hb, e⟩ | ⟨l, hb, e⟩⟩ <;> rw [e]
  · exact .of_slots rfl
  all_goals
    refine (agree_setWindow (window?_eq_some.1 hw).2 ?_).trans (.of_slots rfl)
    simp [Window.outline, Window.frame, Window.kind, Window.regions, Window.drain?, Window.current?, hb]

theorem agree_views {s : State} {h : Handle} {w : Window} {p : Paired} (n : Nat)
    (hp : s.paired? h = some (w, p)) : Agree Window.outline s (s.setPaired h.index w { p with views := n }) :=
  agree_setPaired hp (outline_paired (paired?_eq_some.1 hp).2 rfl rfl rfl)

theorem agree_rights {s : State} {h : Handle} {w : Window} (rm wm : BitVec 4) (g : Fin 4)
    (hw : s.window? h = some w) : Agree Window.outline s
      (s.setWindow h.index { w with readMask := rm, writeMask := wm, group := g }) :=
  agree_setWindow (window?_eq_some.1 hw).2 rfl

theorem agree_dropView (w : Window) (s : State) : Agree Window.outline s (dropView w s) := by
  rcases dropView_cases w s with e | ⟨src, v, p, -, hp, e⟩ <;> rw [e]
  · exact .of_slots rfl
  · exact agree_views _ hp

/-- A flip changes the current bank, and no frame and no drain. -/
theorem agree_flip (r : PublishRecord) (s : State) :
    Agree (fun w => (w.frame, w.drain?)) s (flip r s) := by
  rcases flip_cases r s with e | ⟨w, p, k, hp, -, e⟩ <;> rw [e]
  · exact .of_slots rfl
  · have hb := (paired?_eq_some.1 hp).2
    refine (agree_setPaired (p' := p.flipTo r.idle k) hp ?_).trans (.of_slots rfl)
    rw [frame_paired (p' := p.flipTo r.idle k) hb rfl]
    simp [Window.drain?, hb, Paired.flipTo]

/-- A change of the drain attempts changes no frame and no bank. -/
theorem agree_drain {s : State} {h : Handle} {w : Window} {p : Paired} (d : Option Nat)
    (hp : s.paired? h = some (w, p)) :
    Agree (fun w => (w.frame, w.current?)) s (s.setPaired h.index w { p with drain := d }) := by
  have hb := (paired?_eq_some.1 hp).2
  refine agree_setPaired hp ?_
  simp [frame_paired (p' := { p with drain := d }) hb rfl, Window.current?, hb]

theorem frame_restartWindow (w : Window) : (restartWindow w).frame = w.frame := by
  unfold restartWindow
  cases hb : w.body <;> simp [Window.frame, Window.kind, Window.regions, hb]

theorem drain?_restartWindow (w : Window) : (restartWindow w).drain? = w.drain? := by
  unfold restartWindow
  cases hb : w.body <;> simp [Window.drain?, hb]

/-- What a break of a window's lock leaves of the slots. -/
theorem slots_breakWindowLock (h : Handle) (s : State) : (breakWindowLock h s).slots = s.slots := by
  rw [breakWindowLock_only]

end Sys2Proof.Machine
end

section
/-! O53: the requester ranges and the store regions (R15, R16).  Both laws speak of filled slots only, so that
they are kept where windows go, and where those that stay keep their frames. -/

namespace Sys2Proof.Machine

/-- Every window after the change stood in its slot before it, with this frame. -/
def FramesWithin (s t : State) : Prop :=
  ∀ i w, (t.slot i).win = some w → ∃ v, (s.slot i).win = some v ∧ v.frame = w.frame

theorem FramesWithin.of_agree {α : Type} {f : Window → α} {s t : State} (g : α → Frame)
    (hg : ∀ w, g (f w) = w.frame) (h : Agree f s t) : FramesWithin s t := fun i w hw => by
  obtain ⟨v, hv, e⟩ := h.win hw
  exact ⟨v, hv, by rw [← hg v, ← hg w, e]⟩

theorem FramesWithin.of_outline {s t : State} (h : Agree Window.outline s t) : FramesWithin s t :=
  .of_agree Outline.frame (fun _ => rfl) h

theorem FramesWithin.of_slots {s t : State} (h : t.slots = s.slots) : FramesWithin s t :=
  .of_outline (.of_slots h)

theorem FramesWithin.trans {s t u : State} (h : FramesWithin s t) (k : FramesWithin t u) :
    FramesWithin s u := fun i w hw => by
  obtain ⟨v, hv, e⟩ := k i w hw
  obtain ⟨x, hx, e'⟩ := h i v hv
  exact ⟨x, hx, e'.trans e⟩

theorem framesWithin_emptied (s : State) (h : Handle) (w : Window) : FramesWithin s (s.emptied h w) :=
  fun i v hv => by
    rw [slot_emptied] at hv
    split at hv
    · cases hv
    · exact ⟨v, hv, rfl⟩

theorem framesWithin_freeWindow (h : Handle) (s : State) : FramesWithin s (freeWindow h s) := by
  cases hw : s.window? h with
  | none => rw [freeWindow_unmatched hw]; exact .of_slots rfl
  | some w =>
    rw [freeWindow_matched hw]
    exact (framesWithin_emptied s h w).trans (.of_outline (agree_dropView w _))

theorem freeWindow_storeStrap (h : Handle) (s : State) : (freeWindow h s).storeStrap = s.storeStrap := by
  cases hw : s.window? h with
  | none => rw [freeWindow_unmatched hw]
  | some w => rw [freeWindow_matched hw, dropView_eq]; rfl

theorem framesWithin_restartEvent (s : State) : FramesWithin s (restartEvent s) := fun i w hw => by
  rw [slot_restartEvent] at hw
  unfold restartSlot at hw
  split at hw
  · rename_i hn; rw [hn] at hw; cases hw
  · rename_i v hv
    split at hw
    · cases hw
    · cases hw
      exact ⟨v, hv, (frame_restartWindow v).symm⟩

/-- What the operations on the tables leave of the strapped store size. -/
theorem markLine_storeStrap (h : Handle) (n : Nat) (s : State) : (markLine h n s).storeStrap = s.storeStrap := by
  rcases markLine_cases h n s with e | ⟨w, l, -, -, -, ⟨-, e⟩ | ⟨-, e⟩⟩ <;> rw [e] <;> simp

theorem mergeWork_storeStrap (h : Handle) (s : State) : (mergeWork h s).storeStrap = s.storeStrap := by
  rcases mergeWork_cases h s with e | ⟨w, p, k, -, -, e⟩ <;> rw [e]
  simp

theorem flip_storeStrap (r : PublishRecord) (s : State) : (flip r s).storeStrap = s.storeStrap := by
  rcases flip_cases r s with e | ⟨w, p, k, -, -, e⟩ <;> rw [e] <;> simp

theorem setCopyPosition_storeStrap (h : Handle) (n : Nat) (s : State) :
    (setCopyPosition h n s).storeStrap = s.storeStrap := by
  rcases setCopyPosition_cases h n s with e | ⟨w, p, k, -, -, e⟩ <;> rw [e]
  simp

theorem collectCommand_storeStrap (s : State) : (collectCommand s).storeStrap = s.storeStrap := by
  rcases collectCommand_cases s with ⟨st, e⟩ | ⟨h, w, live, -, ⟨-, e⟩ | ⟨l, -, e⟩⟩ <;> rw [e] <;>
    simp [refuseCommand]

/-- A window made DRAINING, or a drain attempt counted, with the drain queue changed. -/
theorem framesWithin_drain {s : State} {h : Handle} {w : Window} {p : Paired} (f : Engine → Engine)
    (d : Option Nat) (hp : s.paired? h = some (w, p)) :
    FramesWithin s (modEngine f (s.setPaired h.index w { p with drain := d })) :=
  .trans (.of_agree Prod.fst (fun _ => rfl) (agree_drain d hp)) (.of_slots rfl)

/-- A law of the frames of filled slots is kept, if it is where a slot is filled. -/
theorem Kept.of_frames {P : State → Prop}
    (within : ∀ {s t}, P s → t.storeStrap = s.storeStrap → FramesWithin s t → P t)
    (fill : ∀ {s} i w, P s → (s.slot i).win = none → Fillable s w → P (fillSlot i w s))
    (empty : ∀ {s}, (∀ i, (s.slot i).win = none) → P s) : Kept P where
  same h hs := within hs h.storeStrap (.of_slots h.slots)
  store _ _ hs := within hs rfl (.of_slots rfl)
  mark h n hs := within hs (markLine_storeStrap h n _) (.of_outline (agree_markLine h n _))
  fill := fill
  views n hs hp := within hs rfl (.of_outline (agree_views n hp))
  rights rm wm g hs hw := within hs rfl (.of_outline (agree_rights rm wm g hw))
  take hs _ hp := within hs rfl (.of_outline (agree_take hp))
  unit _ hs _ := within hs rfl (.of_slots rfl)
  flip r hs := within hs (flip_storeStrap r _) (.of_agree Prod.fst (fun _ => rfl) (agree_flip r _))
  merge h hs := within hs (mergeWork_storeStrap h _) (.of_outline (agree_mergeWork h _))
  position h n hs := within hs (setCopyPosition_storeStrap h n _) (.of_outline (agree_setCopyPosition h n _))
  enter hs hp _ _ := within hs rfl (framesWithin_drain _ _ hp)
  requeue hs _ hp _ := within hs rfl (framesWithin_drain _ _ hp)
  pop hs _ _ := within hs rfl (.of_slots rfl)
  free h hs _ _ := within hs (freeWindow_storeStrap h _) (framesWithin_freeWindow h _)
  freeBroken h hs _ := within hs ((freeWindow_storeStrap h _).trans (by rw [breakWindowLock_only]))
    (.trans (.of_slots (slots_breakWindowLock h _)) (framesWithin_freeWindow h _))
  unlock _ hs := within hs rfl (.of_slots rfl)
  relock _ _ hs _ := within hs rfl (.of_slots rfl)
  lock _ hs _ _ _ _ _ := within hs rfl (.of_slots rfl)
  guardFill _ _ hs _ _ _ _ _ := within hs rfl (.of_slots rfl)
  guardDrop _ hs := within hs rfl (.of_slots rfl)
  guardTrip _ hs _ := within hs rfl (.of_slots rfl)
  collect hs := within hs (collectCommand_storeStrap _) (.of_outline (agree_collectCommand _))
  restart hs := within hs rfl (framesWithin_restartEvent _)
  cold _ _ _ _ _ _ := empty fun i => by rw [slot_cold]

/-! ### The requester ranges -/

theorem Frame.size_eq {w v : Window} (h : w.frame = v.frame) : w.size = v.size := by
  have hp : w.pages = v.pages := congrArg Frame.pages h
  simp [Window.size, hp]

theorem Frame.rangesMeet_eq {w v w' v' : Window} (h : w'.frame = w.frame) (k : v'.frame = v.frame) :
    rangesMeet w v = rangesMeet w' v' := by
  have hb : w'.base = w.base := congrArg Frame.base h
  have kb : v'.base = v.base := congrArg Frame.base k
  simp [rangesMeet, Frame.size_eq h, Frame.size_eq k, hb, kb]

theorem RangesDisjoint.of_within {s t : State} (hs : RangesDisjoint s) (h : FramesWithin s t) :
    RangesDisjoint t := by
  refine ⟨fun i w hw => ?_, fun i j w v hij hw hv => ?_⟩
  · obtain ⟨w', hw', e⟩ := h i w hw
    have hb : w'.base = w.base := congrArg Frame.base e
    have hp : w'.pages = w.pages := congrArg Frame.pages e
    rw [← hb, ← hp]
    exact hs.1 i w' hw'
  · obtain ⟨w', hw', e⟩ := h i w hw
    obtain ⟨v', hv', e'⟩ := h j v hv
    rw [Frame.rangesMeet_eq e e']
    exact hs.2 i j w' v' hij hw' hv'

theorem sharesByte_comm (a n b m : Nat) : sharesByte a n b m = sharesByte b m a n := by
  simp [sharesByte, Bool.and_comm]

theorem rangesMeet_comm (w v : Window) : rangesMeet w v = rangesMeet v w := sharesByte_comm _ _ _ _

theorem regionsMeet_comm (w v : Window) : regionsMeet w v = regionsMeet v w := by
  rw [Bool.eq_iff_iff]
  simp only [regionsMeet, List.any_eq_true]
  constructor <;> rintro ⟨a, ha, b, hb, h⟩ <;> exact ⟨b, hb, a, ha, by rwa [sharesByte_comm]⟩

theorem RangesDisjoint.fill {s : State} (i : SlotId) (w : Window) (hs : RangesDisjoint s)
    (hw : Fillable s w) : RangesDisjoint (fillSlot i w s) := by
  have new := rangeOverlaps_eq_false.1 hw.disjoint
  refine ⟨fun j v hv => ?_, fun j k v x hjk hv hx => ?_⟩
  · rw [slot_fillSlot] at hv
    split at hv
    · cases hv; exact hw.range
    · exact hs.1 j v hv
  · rw [slot_fillSlot] at hv hx
    split at hv
    · cases hv
      rw [if_neg (by rintro rfl; simp_all)] at hx
      exact new k x hx
    · split at hx
      · cases hx
        rw [rangesMeet_comm]
        exact new j v hv
      · exact hs.2 j k v x hjk hv hx

theorem kept_rangesDisjoint : Kept RangesDisjoint :=
  .of_frames (fun hs _ => hs.of_within) (fun i w hs _ hw => hs.fill i w hw)
    fun h => ⟨fun i w hw => by simp [h i] at hw, fun i j w v _ hw => by simp [h i] at hw⟩

/-! ### The store regions -/

theorem Frame.regionsMeet_eq {w v w' v' : Window} (h : w'.frame = w.frame) (k : v'.frame = v.frame) :
    regionsMeet w v = regionsMeet w' v' := by
  have hr : w'.regions = w.regions := congrArg Frame.regions h
  have kr : v'.regions = v.regions := congrArg Frame.regions k
  simp [regionsMeet, Frame.size_eq h, Frame.size_eq k, hr, kr]

theorem RegionsDisjoint.of_within {s t : State} (hs : RegionsDisjoint s) (hstrap : t.storeStrap = s.storeStrap)
    (h : FramesWithin s t) : RegionsDisjoint t := by
  refine ⟨fun i w hw => ?_, fun i j w v hij hw hv => ?_⟩
  · obtain ⟨w', hw', e⟩ := h i w hw
    have hr : w'.regions = w.regions := congrArg Frame.regions e
    have hin : ∀ a n, t.inStore a n = s.inStore a n := fun a n => by
      unfold State.inStore State.storeSize
      rw [hstrap]
    simp only [← hr, ← Frame.size_eq e, hin]
    exact hs.1 i w' hw'
  · obtain ⟨w', hw', e⟩ := h i w hw
    obtain ⟨v', hv', e'⟩ := h j v hv
    rw [Frame.regionsMeet_eq e e']
    exact hs.2 i j w' v' hij hw' hv'

theorem RegionsDisjoint.fill {s : State} (i : SlotId) (w : Window) (hs : RegionsDisjoint s)
    (hw : Fillable s w) : RegionsDisjoint (fillSlot i w s) := by
  obtain ⟨inside, apart, new⟩ := storeConflict_eq_false.1 hw.regions
  refine ⟨fun j v hv => ?_, fun j k v x hjk hv hx => ?_⟩
  · rw [slot_fillSlot] at hv
    split at hv
    · cases hv; exact ⟨inside, apart⟩
    · exact hs.1 j v hv
  · rw [slot_fillSlot] at hv hx
    split at hv
    · cases hv
      rw [if_neg (by rintro rfl; simp_all)] at hx
      exact new k x hx
    · split at hx
      · cases hx
        rw [regionsMeet_comm]
        exact new j v hv
      · exact hs.2 j k v x hjk hv hx

theorem kept_regionsDisjoint : Kept RegionsDisjoint :=
  .of_frames .of_within (fun i w hs _ hw => hs.fill i w hw)
    fun h => ⟨fun i w hw => by simp [h i] at hw, fun i j w v _ hw => by simp [h i] at hw⟩

end Sys2Proof.Machine

namespace Sys2Proof

open Machine

/-- Settles O53: a filling has passed the overlap tests, and every other change leaves the frames or frees. -/
theorem stepKeepsRangesAndRegionsDisjoint : Obligations.StepKeepsRangesAndRegionsDisjoint :=
  ⟨fun _ _ hs ht => kept_rangesDisjoint.step hs _ ht, fun _ _ hs ht => kept_regionsDisjoint.step hs _ ht⟩

end Sys2Proof
end

section
/-! O54: the law of the guard table (R136).  A guard's window keeps its frame while it stands, and goes with its
guards. -/

namespace Sys2Proof.Machine

/-- The guards after the change stood before it, but for their trip records. -/
def GuardsWithin (s t : State) : Prop :=
  ∀ i k, t.guard i = some k → ∃ g tr, s.guard i = some g ∧ k = { g with trip := tr }

theorem GuardsWithin.of_guards {s t : State} (h : t.guards = s.guards) : GuardsWithin s t := fun i k hk =>
  ⟨k, k.trip, by rwa [← guard_congr h], rfl⟩

/-- The law needs every guard to keep its frame, and its window to stand. -/
theorem GuardsSound.of_within {s t : State} (hs : GuardsSound s) (hg : GuardsWithin s t)
    (hw : ∀ i g v, s.guard i = some g → (∃ k tr, t.guard i = some k ∧ k = { g with trip := tr }) →
      s.window? g.window = some v → ∃ w, t.window? g.window = some w ∧ v.frame = w.frame) :
    GuardsSound t := by
  refine ⟨fun i k hk => ?_, fun i j k l hij hk hl => ?_⟩
  · obtain ⟨g, tr, hg', rfl⟩ := hg i k hk
    obtain ⟨⟨v, hv, hkind, hoff⟩, hfields⟩ := hs.1 i g hg'
    obtain ⟨w, hw', e⟩ := hw i g v hg' ⟨_, tr, hk, rfl⟩ hv
    have hkind' : v.kind = w.kind := congrArg Frame.kind e
    exact ⟨⟨w, hw', hkind' ▸ hkind, Frame.size_eq e ▸ hoff⟩, hfields⟩
  · obtain ⟨g, tr, hg', rfl⟩ := hg i k hk
    obtain ⟨g2, tr2, hg2, rfl⟩ := hg j l hl
    exact hs.2 i j g g2 hij hg' hg2

theorem GuardsSound.of_agree {s t : State} {α : Type} {f : Window → α} (g : α → Frame)
    (hf : ∀ w, g (f w) = w.frame) (hs : GuardsSound s) (hg : GuardsWithin s t) (ha : Agree f s t) :
    GuardsSound t :=
  hs.of_within hg fun _ _ _ _ _ hv => by
    obtain ⟨w, hw, e⟩ := ha.symm.window? hv
    exact ⟨w, hw, by rw [← hf, ← hf, e]⟩

theorem GuardsSound.of_outline {s t : State} (hs : GuardsSound s) (hg : t.guards = s.guards)
    (ha : Agree Window.outline s t) : GuardsSound t :=
  hs.of_agree Outline.frame (fun _ => rfl) (.of_guards hg) ha

theorem GuardsSound.of_slots {s t : State} (hs : GuardsSound s) (hg : GuardsWithin s t)
    (h : t.slots = s.slots) : GuardsSound t :=
  hs.of_agree (f := Window.outline) Outline.frame (fun _ => rfl) hg (.of_slots h)

/-! ### What the operations on the line sets leave of the guards -/

theorem markLine_guards (h : Handle) (n : Nat) (s : State) : (markLine h n s).guards = s.guards := by
  rcases markLine_cases h n s with e | ⟨w, l, -, -, -, ⟨-, e⟩ | ⟨-, e⟩⟩ <;> rw [e] <;> simp

theorem mergeWork_guards (h : Handle) (s : State) : (mergeWork h s).guards = s.guards := by
  rcases mergeWork_cases h s with e | ⟨w, p, k, -, -, e⟩ <;> rw [e]
  simp

theorem flip_guards (r : PublishRecord) (s : State) : (flip r s).guards = s.guards := by
  rcases flip_cases r s with e | ⟨w, p, k, -, -, e⟩ <;> rw [e] <;> simp

theorem setCopyPosition_guards (h : Handle) (n : Nat) (s : State) :
    (setCopyPosition h n s).guards = s.guards := by
  rcases setCopyPosition_cases h n s with e | ⟨w, p, k, -, -, e⟩ <;> rw [e]
  simp

theorem collectCommand_guards (s : State) : (collectCommand s).guards = s.guards := by
  rcases collectCommand_cases s with ⟨st, e⟩ | ⟨h, w, live, -, ⟨-, e⟩ | ⟨l, -, e⟩⟩ <;> rw [e] <;>
    simp [refuseCommand]

theorem dropView_guards (w : Window) (s : State) : (dropView w s).guards = s.guards := by
  rw [dropView_eq]

theorem keepGuard_eq_some {h : Handle} {x : Option Guard} {g : Guard} :
    keepGuard h x = some g ↔ x = some g ∧ g.window ≠ h := by
  unfold keepGuard
  cases x with
  | none => simp
  | some k =>
    by_cases hk : k.window = h
    · simp only [hk, if_true]
      constructor
      · rintro ⟨⟩
      · rintro ⟨⟨⟩, hn⟩; exact absurd hk hn
    · simp only [hk, if_false, Option.some.injEq]
      exact ⟨fun e => ⟨e, e ▸ hk⟩, fun e => e.1⟩

/-! ### The changes that fill, free and restart -/

theorem GuardsSound.freeWindow {s : State} (h : Handle) (hs : GuardsSound s) :
    GuardsSound (freeWindow h s) := by
  cases hw : s.window? h with
  | none => rw [freeWindow_unmatched hw]; exact hs
  | some w =>
    rw [freeWindow_matched hw]
    have hemptied : GuardsSound (s.emptied h w) := by
      refine hs.of_within (fun i k hk => ?_) (fun i g v hg hk hv => ?_)
      · rw [guard_emptied, keepGuard_eq_some] at hk
        exact ⟨k, k.trip, hk.1, rfl⟩
      · obtain ⟨k, tr, hk, rfl⟩ := hk
        rw [guard_emptied, keepGuard_eq_some] at hk
        exact ⟨v, by rw [window?_emptied hw, if_neg hk.2, hv], rfl⟩
    exact hemptied.of_outline (dropView_guards _ _) (agree_dropView _ _)

theorem GuardsSound.breakWindowLock {s : State} (h : Handle) (hs : GuardsSound s) :
    GuardsSound (breakWindowLock h s) := by
  rw [breakWindowLock_only]
  exact hs

theorem restartGuard_eq_some {s : State} {x : Option Guard} {g : Guard} (h : restartGuard s x = some g) :
    x = some g ∧ ∀ w, s.window? g.window = some w → w.draining = false := by
  unfold restartGuard at h
  split at h
  · cases h
  · split at h
    · rename_i hn
      cases h
      exact ⟨rfl, fun w hw => by rw [hn] at hw; cases hw⟩
    · rename_i w hw
      split at h
      · cases h
      · rename_i hd
        cases h
        refine ⟨rfl, fun v hv => ?_⟩
        rw [hw] at hv
        cases hv
        simpa using hd

theorem GuardsSound.restartEvent {s : State} (hs : GuardsSound s) : GuardsSound (restartEvent s) := by
  refine hs.of_within (fun i k hk => ?_) (fun i g v hg hk hv => ?_)
  · rw [guard_restartEvent] at hk
    exact ⟨k, k.trip, (restartGuard_eq_some hk).1, rfl⟩
  · obtain ⟨k, tr, hk, rfl⟩ := hk
    rw [guard_restartEvent] at hk
    have hd := (restartGuard_eq_some hk).2 v hv
    exact ⟨restartWindow v, by simp [window?_restartEvent, hv, hd], (frame_restartWindow v).symm⟩

/-- No SET record has the window and the word offset of a new one (R137 check 5). -/
theorem guardNames_none {s : State} {h : Handle} {o : Nat} (hd : s.guards.toList.any (guardNames h o) = false)
    (j : GuardId) (k : Guard) (hk : s.guard j = some k) : ¬(k.window = h ∧ k.offset = o) := by
  have hmem : some k ∈ s.guards.toList := by
    rw [← hk]
    simp [State.guard]
  have := List.any_eq_false.1 hd _ hmem
  simpa [guardNames] using this

theorem GuardsSound.guardFill {s : State} {w : Window} (i : GuardId) (g : Guard) (hs : GuardsSound s)
    (hw : s.window? g.window = some w) (hv : w.kind ≠ .view) (hg : guardOperands s g.window w = some g)
    (hd : s.guards.toList.any (guardNames g.window g.offset) = false) :
    GuardsSound (s.setGuard i (some g)) := by
  obtain ⟨-, halign, hin, hmask, hrange⟩ := Kept.guardOperands_fields hg
  have new := guardNames_none hd
  refine ⟨fun j k hk => ?_, fun j l k m hjl hk hm => ?_⟩
  · rw [guard_setGuard] at hk
    split at hk
    · cases hk
      exact ⟨⟨w, hw, hv, hin⟩, halign, hmask, hrange⟩
    · exact hs.1 j k hk
  · rw [guard_setGuard] at hk hm
    split at hk
    · cases hk
      rw [if_neg (fun e => hjl (by simp_all))] at hm
      exact fun e => new l m hm ⟨e.1.symm, e.2.symm⟩
    · split at hm
      · cases hm
        exact fun e => new j k hk e
      · exact hs.2 j l k m hjl hk hm

theorem kept_guardsSound : Kept GuardsSound where
  same h hs := hs.of_slots (.of_guards h.guards) h.slots
  store _ _ hs := hs
  mark h n hs := hs.of_outline (markLine_guards h n _) (agree_markLine h n _)
  fill i w hs hi _ := hs.of_within (.of_guards rfl) fun _ _ v _ _ hv => ⟨v, window?_fillSlot w hi hv, rfl⟩
  views n hs hp := hs.of_outline rfl (agree_views n hp)
  rights rm wm g hs hw := hs.of_outline rfl (agree_rights rm wm g hw)
  take hs _ hp := hs.of_outline rfl (agree_take hp)
  unit _ hs _ := hs
  flip r hs := hs.of_agree Prod.fst (fun _ => rfl) (.of_guards (flip_guards r _)) (agree_flip r _)
  merge h hs := hs.of_outline (mergeWork_guards h _) (agree_mergeWork h _)
  position h n hs := hs.of_outline (setCopyPosition_guards h n _) (agree_setCopyPosition h n _)
  enter hs hp _ _ := hs.of_agree Prod.fst (fun _ => rfl) (.of_guards rfl) ((agree_drain _ hp).trans (.of_slots rfl))
  requeue hs _ hp _ :=
    hs.of_agree Prod.fst (fun _ => rfl) (.of_guards rfl) ((agree_drain _ hp).trans (.of_slots rfl))
  pop hs _ _ := hs
  free h hs _ _ := hs.freeWindow h
  freeBroken h hs _ := (hs.breakWindowLock h).freeWindow h
  unlock _ hs := hs
  relock _ _ hs _ := hs
  lock _ hs _ _ _ _ _ := hs
  guardFill i g hs _ hw hv hg hd := hs.guardFill i g hw hv hg hd
  guardDrop i hs := hs.of_slots (fun j k hk => by
    rw [guard_setGuard] at hk
    split at hk
    · cases hk
    · exact ⟨k, k.trip, hk, rfl⟩) rfl
  guardTrip {s i g} t hs hg := hs.of_slots (fun j k hk => by
    rw [guard_setGuard] at hk
    split at hk
    · rename_i e
      cases hk
      exact ⟨g, t, e ▸ hg, rfl⟩
    · exact ⟨k, k.trip, hk, rfl⟩) rfl
  collect hs := hs.of_outline (collectCommand_guards _) (agree_collectCommand _)
  restart hs := hs.restartEvent
  cold c z p f q _ :=
    ⟨fun i g hg => by simp [guard_cold] at hg, fun i j g k _ hg => by simp [guard_cold] at hg⟩

end Sys2Proof.Machine

namespace Sys2Proof

open Machine

/-- Settles O54: guards keep their fields and their window's frame, and go with their window. -/
theorem stepKeepsTheGuardsSound : Obligations.StepKeepsTheGuardsSound :=
  fun _ _ hs ht => kept_guardsSound.step hs _ ht

end Sys2Proof
end

section
/-! O56: the bank that the publish at the unit writes is not the current one (R63, R70). -/

namespace Sys2Proof.Machine

theorem paired?_iff_current {s : State} {h : Handle} {bank : Bank} :
    (∃ w p, s.paired? h = some (w, p) ∧ p.current = bank) ↔
      ∃ w, s.window? h = some w ∧ w.current? = some bank := by
  simp only [paired?_eq_some, Window.current?_eq_some]
  constructor
  · rintro ⟨w, p, ⟨hw, hb⟩, hc⟩
    exact ⟨w, hw, p, hb, hc⟩
  · rintro ⟨w, hw, p, hb, hc⟩
    exact ⟨w, p, ⟨hw, hb⟩, hc⟩

/-- The record's window stands, PAIRED, with the other bank current. -/
def BankFixed (s : State) (r : PublishRecord) : Prop :=
  ∃ w p, s.paired? r.handle = some (w, p) ∧ r.idle = p.current.other

theorem bankFixed_iff {s : State} {r : PublishRecord} :
    BankFixed s r ↔ ∃ w bank, s.window? r.handle = some w ∧ w.current? = some bank ∧ r.idle = bank.other := by
  constructor
  · rintro ⟨w, p, hp, hi⟩
    obtain ⟨v, hv, hc⟩ := paired?_iff_current.1 ⟨w, p, hp, rfl⟩
    exact ⟨v, p.current, hv, hc, hi⟩
  · rintro ⟨w, bank, hw, hc, hi⟩
    obtain ⟨v, p, hp, rfl⟩ := paired?_iff_current.2 ⟨w, hw, hc⟩
    exact ⟨v, p, hp, hi⟩

theorem BankFixed.of_agree {s t : State} {r : PublishRecord} {α : Type} {f : Window → α} (g : α → Option Bank)
    (hf : ∀ w, g (f w) = w.current?) (ha : Agree f s t) (h : BankFixed s r) : BankFixed t r := by
  obtain ⟨w, bank, hw, hc, hi⟩ := bankFixed_iff.1 h
  obtain ⟨v, hv, e⟩ := ha.symm.window? hw
  exact bankFixed_iff.2 ⟨v, bank, hv, by rw [← hf, e, hf, hc], hi⟩

theorem IdleBankSound.of_agree {s t : State} {α : Type} {f : Window → α} (g : α → Option Bank)
    (hf : ∀ w, g (f w) = w.current?) (hs : IdleBankSound s) (hu : t.pubUnit = s.pubUnit) (ha : Agree f s t) :
    IdleBankSound t := fun r hr =>
  BankFixed.of_agree g hf ha (hs r (by rwa [← hu]))

theorem IdleBankSound.of_outline {s t : State} (hs : IdleBankSound s) (hu : t.pubUnit = s.pubUnit)
    (ha : Agree Window.outline s t) : IdleBankSound t := hs.of_agree Outline.current (fun _ => rfl) hu ha

theorem IdleBankSound.of_slots {s t : State} (hs : IdleBankSound s) (hu : t.pubUnit = s.pubUnit)
    (h : t.slots = s.slots) : IdleBankSound t := hs.of_outline hu (.of_slots h)

/-- With no publish record at the unit there is nothing to hold. -/
theorem idleBankSound_of_no_record {s : State} (h : s.pubUnit.record? = none) : IdleBankSound s := fun r hr => by
  rw [h] at hr
  cases hr

theorem idleBankSound_of_ready {s : State} (h : s.pubUnit = .ready) : IdleBankSound s :=
  idleBankSound_of_no_record (by rw [h]; rfl)

theorem markLine_pubUnit (h : Handle) (n : Nat) (s : State) : (markLine h n s).pubUnit = s.pubUnit := by
  rcases markLine_cases h n s with e | ⟨w, l, -, -, -, ⟨-, e⟩ | ⟨-, e⟩⟩ <;> rw [e] <;> simp

theorem collectCommand_pubUnit (s : State) : (collectCommand s).pubUnit = s.pubUnit := by
  rcases collectCommand_cases s with ⟨st, e⟩ | ⟨h, w, live, -, ⟨-, e⟩ | ⟨l, -, e⟩⟩ <;> rw [e] <;>
    simp [refuseCommand]

theorem restartUnit_record? (s : State) : (restartUnit s).record? = none := by
  unfold restartUnit
  repeat' split
  all_goals rfl

/-- Freeing a window other than the record's leaves the record's. -/
theorem BankFixed.freeWindow {s : State} {r : PublishRecord} {h : Handle} (hr : BankFixed s r)
    (hne : r.handle ≠ h) : BankFixed (freeWindow h s) r := by
  cases hw : s.window? h with
  | none => rwa [freeWindow_unmatched hw]
  | some w =>
    rw [freeWindow_matched hw]
    obtain ⟨v, bank, hv, hc, hi⟩ := bankFixed_iff.1 hr
    have hemptied : BankFixed (s.emptied h w) r :=
      bankFixed_iff.2 ⟨v, bank, by rw [window?_emptied hw, if_neg hne, hv], hc, hi⟩
    exact hemptied.of_agree Outline.current (fun _ => rfl) (agree_dropView w _)

theorem kept_idleBankSound : Kept IdleBankSound where
  same h hs := hs.of_slots h.pubUnit h.slots
  store _ _ hs := hs
  mark h n hs := hs.of_outline (markLine_pubUnit h n _) (agree_markLine h n _)
  fill i w hs hi _ r hr := by
    obtain ⟨v, bank, hv, hc, hb⟩ := bankFixed_iff.1 (hs r hr)
    exact bankFixed_iff.2 ⟨v, bank, window?_fillSlot w hi hv, hc, hb⟩
  views n hs hp := hs.of_outline rfl (agree_views n hp)
  rights rm wm g hs hw := hs.of_outline rfl (agree_rights rm wm g hw)
  take hs _ hp := hs.of_outline rfl (agree_take hp)
  unit u hs hu r hr := by
    rcases hu r hr with ⟨r0, h0, hh, hi⟩ | hfixed
    · obtain ⟨w, p, hp, hb⟩ := hs r0 h0
      exact ⟨w, p, hh ▸ hp, hi ▸ hb⟩
    · exact hfixed
  flip r _ := idleBankSound_of_ready (flip_pubUnit r _)
  merge h hs := hs.of_outline (mergeWork_pubUnit h _) (agree_mergeWork h _)
  position h n hs := hs.of_outline (setCopyPosition_pubUnit h n _) (agree_setCopyPosition h n _)
  enter hs hp _ _ := hs.of_agree Prod.snd (fun _ => rfl) rfl ((agree_drain _ hp).trans (.of_slots rfl))
  requeue hs _ hp _ := hs.of_agree Prod.snd (fun _ => rfl) rfl ((agree_drain _ hp).trans (.of_slots rfl))
  pop hs _ _ := hs
  free {s} h hs _ hne r hr := by
    rw [freeWindow_pubUnit] at hr
    refine (show BankFixed s r from hs r hr).freeWindow ?_
    rintro rfl
    rcases hne with hne | hnone
    · exact hne r hr rfl
    · obtain ⟨w, p, hp, -⟩ := hs r hr
      rw [hnone] at hp
      cases hp
  freeBroken h _ hu := idleBankSound_of_ready (by simpa using hu)
  unlock _ hs := hs
  relock _ _ hs _ := hs
  lock _ hs _ _ _ _ _ := hs
  guardFill _ _ hs _ _ _ _ _ := hs
  guardDrop _ hs := hs
  guardTrip _ hs _ := hs
  collect hs := hs.of_outline (collectCommand_pubUnit _) (agree_collectCommand _)
  restart _ := idleBankSound_of_no_record (restartUnit_record? _)
  cold _ _ _ _ _ _ := idleBankSound_of_ready rfl

end Sys2Proof.Machine

namespace Sys2Proof

open Machine

/-- Settles O56: a start fixes the other bank, and a flip, which alone changes the current one, ends the
publish. -/
theorem stepKeepsTheIdleBankIdle : Obligations.StepKeepsTheIdleBankIdle :=
  fun _ _ hs ht => kept_idleBankSound.step hs _ ht

end Sys2Proof
end

section
/-! O55: the drain queue and the lock table (R5, R115, R120).  The drain queue holds the DRAINING windows, and a
locked window is not one of them. -/

namespace Sys2Proof.Machine

/-! ### The fields that the two laws read -/

/-- What the two laws read of a window: whether it is a VIEW, and its drain attempts. -/
def Window.drainKind (w : Window) : Kind × Option Nat := (w.kind, w.drain?)

theorem Window.draining_of_drainKind {w v : Window} (h : w.drainKind = v.drainKind) :
    w.draining = v.draining := by
  rw [Window.draining_eq, Window.draining_eq, show w.drain? = v.drain? from congrArg Prod.snd h]

theorem Window.kind_of_drainKind {w v : Window} (h : w.drainKind = v.drainKind) : w.kind = v.kind :=
  congrArg Prod.fst h

theorem Agree.drainKind {s t : State} (h : Agree Window.outline s t) : Agree Window.drainKind s t :=
  h.map fun o => (o.frame.kind, o.drain)

/-- A window has at most one drain attempt (R117). -/
def FewAttempts (s : State) : Prop := ∀ h w, s.window? h = some w → w.drain?.getD 0 ≤ 1

theorem fewAttempts_iff {s : State} :
    FewAttempts s ↔ ∀ h w p, s.paired? h = some (w, p) → p.drain.getD 0 ≤ 1 := by
  constructor
  · intro hf h w p hp
    obtain ⟨hw, hb⟩ := paired?_eq_some.1 hp
    have := hf h w hw
    rwa [Window.drain?_paired hb] at this
  · intro hp h w hw
    cases hb : w.body with
    | paired p =>
      rw [Window.drain?_paired hb]
      exact hp h w p (paired?_eq_some.2 ⟨hw, hb⟩)
    | _ => simp [Window.drain?, hb]

/-- The handle matches a DRAINING window. -/
def State.drains (s : State) (h : Handle) : Prop := ∃ w, s.window? h = some w ∧ w.draining = true

/-- The handle matches a window that may be locked: ACTIVE, and not a VIEW (R120). -/
def State.lockable (s : State) (h : Handle) : Prop :=
  ∃ w, s.window? h = some w ∧ w.draining = false ∧ w.kind ≠ .view

theorem State.lockable_not_drains {s : State} {h : Handle} (hl : s.lockable h) : ¬s.drains h := by
  rintro ⟨w, hw, hd⟩
  obtain ⟨v, hv, hd', -⟩ := hl
  rw [hw] at hv
  cases hv
  simp [hd] at hd'

theorem Agree.drains_iff {s t : State} (h : Agree Window.drainKind s t) (x : Handle) :
    t.drains x ↔ s.drains x := by
  constructor
  · rintro ⟨w, hw, hd⟩
    obtain ⟨v, hv, e⟩ := h.window? hw
    exact ⟨v, hv, (Window.draining_of_drainKind e).trans hd⟩
  · rintro ⟨w, hw, hd⟩
    obtain ⟨v, hv, e⟩ := h.symm.window? hw
    exact ⟨v, hv, (Window.draining_of_drainKind e).trans hd⟩

theorem Agree.lockable {s t : State} (h : Agree Window.drainKind s t) {x : Handle} (hl : s.lockable x) :
    t.lockable x := by
  obtain ⟨w, hw, hd, hk⟩ := hl
  obtain ⟨v, hv, e⟩ := h.symm.window? hw
  exact ⟨v, hv, (Window.draining_of_drainKind e).trans hd, Window.kind_of_drainKind e ▸ hk⟩

theorem Agree.fewAttempts {s t : State} (h : Agree Window.drainKind s t) (hf : FewAttempts s) :
    FewAttempts t := fun x w hw => by
  obtain ⟨v, hv, e⟩ := h.window? hw
  rw [← show v.drain? = w.drain? from congrArg Prod.snd e]
  exact hf x v hv

/-- The two laws together, in the words of this file. -/
theorem drainsAndLocksSound_iff {s : State} : DrainsAndLocksSound s ↔
    (s.engine.drainQueue.Nodup ∧ (∀ h, h ∈ s.engine.drainQueue ↔ s.drains h) ∧ FewAttempts s) ∧
      (∀ p l, s.lock p = some l → s.lockable l.window) ∧
      ∀ p q l m, s.lock p = some l → s.lock q = some m → l.window = m.window → p = q := by
  rw [fewAttempts_iff]
  rfl

/-! ### Changes of the lock table -/

/-- The locks after the change stood before it, on the same windows. -/
def LocksWithin (s t : State) : Prop :=
  ∀ p l, t.lock p = some l → ∃ m, s.lock p = some m ∧ m.window = l.window

theorem LocksWithin.of_locks {s t : State} (h : t.locks = s.locks) : LocksWithin s t := fun p l hl =>
  ⟨l, by rwa [← lock_congr h], rfl⟩

/-- The laws are kept where the drain queue stays, windows keep what the laws read, and locks stay or go. -/
theorem DrainsAndLocksSound.of_agree {s t : State} (hs : DrainsAndLocksSound s)
    (hq : t.engine.drainQueue = s.engine.drainQueue) (hl : LocksWithin s t)
    (ha : Agree Window.drainKind s t) : DrainsAndLocksSound t := by
  obtain ⟨⟨hnodup, hmem, hfew⟩, hlock, hone⟩ := drainsAndLocksSound_iff.1 hs
  refine drainsAndLocksSound_iff.2 ⟨⟨hq ▸ hnodup, fun h => ?_, ha.fewAttempts hfew⟩, fun p l hp => ?_,
    fun p q l m hp hq' e => ?_⟩
  · rw [hq, ha.drains_iff]
    exact hmem h
  · obtain ⟨m, hm, e⟩ := hl p l hp
    exact ha.lockable (e ▸ hlock p m hm)
  · obtain ⟨l', hl', el⟩ := hl p l hp
    obtain ⟨m', hm', em⟩ := hl q m hq'
    exact hone p q l' m' hl' hm' (by rw [el, em, e])

theorem DrainsAndLocksSound.of_outline {s t : State} (hs : DrainsAndLocksSound s)
    (hq : t.engine.drainQueue = s.engine.drainQueue) (hl : t.locks = s.locks)
    (ha : Agree Window.outline s t) : DrainsAndLocksSound t := hs.of_agree hq (.of_locks hl) ha.drainKind

theorem DrainsAndLocksSound.of_slots {s t : State} (hs : DrainsAndLocksSound s)
    (hq : t.engine.drainQueue = s.engine.drainQueue) (hl : LocksWithin s t) (h : t.slots = s.slots) :
    DrainsAndLocksSound t := hs.of_agree hq hl (.of_slots h)

theorem locksWithin_setLock {s : State} (p : PortId) (x : Option Lock)
    (hx : ∀ l, x = some l → ∃ m, s.lock p = some m ∧ m.window = l.window) :
    LocksWithin s (s.setLock p x) := fun q l hl => by
  rw [lock_setLock] at hl
  split at hl
  · rename_i e
    exact e ▸ hx l hl
  · exact ⟨l, hl, rfl⟩

theorem locksWithin_breakLock (p : PortId) (s : State) : LocksWithin s (breakLock p s) := fun q l hl => by
  rw [lock_breakLock] at hl
  split at hl
  · cases hl
  · exact ⟨l, hl, rfl⟩

theorem otherHolds_eq_false {s : State} {p : PortId} {h : Handle} (ho : otherHolds p h s = false)
    (hp : s.lock p = none) (q : PortId) (l : Lock) (hl : s.lock q = some l) : l.window ≠ h := by
  rintro rfl
  have hq : s.holds q l.window = true := holds_iff.2 ⟨l, hl, rfl⟩
  obtain ⟨r, hr⟩ : ∃ r, s.lockHolder l.window = some r := by
    rw [← Option.ne_none_iff_exists']
    intro hn
    simp only [State.lockHolder, List.find?_eq_none, List.mem_finRange, forall_const] at hn
    exact hn q hq
  have hholds : s.holds r l.window = true := List.find?_some (p := fun p => s.holds p l.window) hr
  obtain ⟨m, hm, -⟩ := holds_iff.1 hholds
  simp only [otherHolds, hr, bne_eq_false_iff_eq] at ho
  rw [ho, hp] at hm
  cases hm

theorem DrainsAndLocksSound.takeLock {s : State} {h : Handle} {w : Window} (p : PortId)
    (hs : DrainsAndLocksSound s) (hw : s.window? h = some w) (hv : w.kind ≠ .view) (hd : w.draining = false)
    (ho : otherHolds p h s = false) (hp : s.lock p = none) : DrainsAndLocksSound (takeLock p h s) := by
  obtain ⟨hqueue, hlock, hone⟩ := drainsAndLocksSound_iff.1 hs
  have free := otherHolds_eq_false ho hp
  have hmine : ∀ q l, (Machine.takeLock p h s).lock q = some l →
      p = q ∧ l.window = h ∨ p ≠ q ∧ s.lock q = some l := fun q l hl => by
    rw [Machine.takeLock, lock_setLock] at hl
    split at hl
    · cases hl; exact .inl ⟨‹_›, rfl⟩
    · exact .inr ⟨‹_›, hl⟩
  refine drainsAndLocksSound_iff.2 ⟨hqueue, fun q l hl => ?_, fun q r l m hl hm e => ?_⟩
  · rcases hmine q l hl with ⟨-, rfl⟩ | ⟨-, hl⟩
    · exact ⟨w, hw, hd, hv⟩
    · exact hlock q l hl
  · rcases hmine q l hl with ⟨rfl, hwin⟩ | ⟨hne, hl⟩ <;> rcases hmine r m hm with ⟨rfl, hwin'⟩ | ⟨hne', hm⟩
    · rfl
    · exact absurd (e.symm.trans hwin) (free r m hm)
    · exact absurd (e.trans hwin') (free q l hl)
    · exact hone q r l m hl hm e

/-! ### Windows filled, made DRAINING and freed -/

theorem DrainsAndLocksSound.fill {s : State} (i : SlotId) (w : Window) (hs : DrainsAndLocksSound s)
    (hi : (s.slot i).win = none) (hw : Fillable s w) : DrainsAndLocksSound (fillSlot i w s) := by
  obtain ⟨⟨hnodup, hmem, hfew⟩, hlock, hone⟩ := drainsAndLocksSound_iff.1 hs
  have hnew : w.drain? = none := by simpa [Window.draining_eq] using hw.active
  refine drainsAndLocksSound_iff.2 ⟨⟨hnodup, fun h => ?_, fun h v hv => ?_⟩, fun p l hl => ?_, hone⟩
  · refine (hmem h).trans ⟨?_, ?_⟩
    · rintro ⟨v, hv, hd⟩
      exact ⟨v, window?_fillSlot w hi hv, hd⟩
    · rintro ⟨v, hv, hd⟩
      rcases window?_of_fillSlot hv with ⟨-, rfl⟩ | ⟨-, hv⟩
      · rw [hw.active] at hd; cases hd
      · exact ⟨v, hv, hd⟩
  · rcases window?_of_fillSlot hv with ⟨-, rfl⟩ | ⟨-, hv⟩
    · simp [hnew]
    · exact hfew h v hv
  · obtain ⟨v, hv, hd, hk⟩ := hlock p l hl
    exact ⟨v, window?_fillSlot w hi hv, hd, hk⟩

theorem drains_setDrain {s : State} {h : Handle} {w : Window} {p : Paired} (n : Nat)
    (hp : s.paired? h = some (w, p)) (x : Handle) :
    (s.setPaired h.index w { p with drain := some n }).drains x ↔ x = h ∨ s.drains x := by
  unfold State.drains
  rw [window?_setPaired _ hp]
  by_cases hx : x = h
  · simp [hx, Window.draining]
  · simp [hx]

theorem fewAttempts_setDrain {s : State} {h : Handle} {w : Window} {p : Paired} {n : Nat}
    (hp : s.paired? h = some (w, p)) (hn : n ≤ 1) (hf : FewAttempts s) :
    FewAttempts (s.setPaired h.index w { p with drain := some n }) := fun x v hv => by
  rw [window?_setPaired _ hp] at hv
  split at hv
  · cases hv
    exact hn
  · exact hf x v hv

theorem lockable_setDrain {s : State} {h : Handle} {w : Window} {p : Paired} (n : Option Nat)
    (hp : s.paired? h = some (w, p)) {x : Handle} (hx : x ≠ h) (hl : s.lockable x) :
    (s.setPaired h.index w { p with drain := n }).lockable x := by
  obtain ⟨v, hv, hd⟩ := hl
  exact ⟨v, by rw [window?_setPaired _ hp, if_neg hx, hv], hd⟩

theorem DrainsAndLocksSound.enter {s : State} {h : Handle} {w : Window} {p : Paired}
    (hs : DrainsAndLocksSound s) (hp : s.paired? h = some (w, p)) (hd : w.draining = false)
    (hl : s.isLocked h = false) :
    DrainsAndLocksSound (modEngine (fun e => { e with drainQueue := e.drainQueue ++ [h] })
      (s.setPaired h.index w { p with drain := some 0 })) := by
  obtain ⟨⟨hnodup, hmem, hfew⟩, hlock, hone⟩ := drainsAndLocksSound_iff.1 hs
  have hout : h ∉ s.engine.drainQueue := by
    rw [hmem]
    rintro ⟨v, hv, hdv⟩
    rw [(paired?_eq_some.1 hp).1] at hv
    cases hv
    rw [hd] at hdv
    cases hdv
  refine drainsAndLocksSound_iff.2 ⟨⟨?_, fun x => ?_, ?_⟩, fun q l hq => ?_, hone⟩
  · show (s.engine.drainQueue ++ [h]).Nodup
    exact List.Nodup.append hnodup (List.nodup_singleton h) (by simpa using hout)
  · show x ∈ s.engine.drainQueue ++ [h] ↔ (s.setPaired h.index w { p with drain := some 0 }).drains x
    rw [drains_setDrain 0 hp, ← hmem, List.mem_append, List.mem_singleton, or_comm]
  · exact fewAttempts_setDrain hp (Nat.zero_le 1) hfew
  · refine lockable_setDrain (some 0) hp (fun e => ?_) (hlock q l hq)
    have := isLocked_eq_false.1 hl q
    rw [← e, Bool.eq_false_iff] at this
    exact this (holds_iff.2 ⟨l, hq, rfl⟩)

theorem DrainsAndLocksSound.requeue {s : State} {h : Handle} {q : List Handle} {w : Window} {p : Paired}
    (hs : DrainsAndLocksSound s) (hq : s.engine.drainQueue = h :: q) (hp : s.paired? h = some (w, p))
    (h0 : p.drain.getD 0 = 0) :
    DrainsAndLocksSound (modEngine (fun e => { e with drainQueue := q ++ [h] })
      (s.setPaired h.index w { p with drain := some (p.drain.getD 0 + 1) })) := by
  obtain ⟨⟨hnodup, hmem, hfew⟩, hlock, hone⟩ := drainsAndLocksSound_iff.1 hs
  have hperm : (q ++ [h]).Perm (h :: q) := List.perm_append_singleton h q
  have hdrains : s.drains h := (hmem h).1 (by rw [hq]; exact List.mem_cons_self)
  refine drainsAndLocksSound_iff.2 ⟨⟨?_, fun x => ?_, ?_⟩, fun k l hk => ?_, hone⟩
  · show (q ++ [h]).Nodup
    rw [hperm.nodup_iff, ← hq]
    exact hnodup
  · show x ∈ q ++ [h] ↔ (s.setPaired h.index w { p with drain := some (p.drain.getD 0 + 1) }).drains x
    rw [drains_setDrain _ hp, hperm.mem_iff, ← hq, hmem]
    exact ⟨.inr, fun hx => hx.elim (fun e => e ▸ hdrains) id⟩
  · exact fewAttempts_setDrain hp (by omega) hfew
  · refine lockable_setDrain _ hp (fun e => ?_) (hlock k l hk)
    exact State.lockable_not_drains (e ▸ hlock k l hk) hdrains

theorem DrainsAndLocksSound.pop {s : State} {h : Handle} {q : List Handle} (hs : DrainsAndLocksSound s)
    (hq : s.engine.drainQueue = h :: q) (hn : s.paired? h = none) :
    DrainsAndLocksSound (modEngine (fun e => { e with drainQueue := e.drainQueue.tail }) s) := by
  obtain ⟨⟨-, hmem, -⟩, -⟩ := drainsAndLocksSound_iff.1 hs
  obtain ⟨w, hw, hd⟩ := (hmem h).1 (by rw [hq]; exact List.mem_cons_self)
  cases hb : w.body with
  | paired p =>
    rw [paired?_eq_some.2 ⟨hw, hb⟩] at hn
    cases hn
  | _ => simp [Window.draining, hb] at hd

/-- Freeing a window that no port has locked. -/
theorem DrainsAndLocksSound.free {s : State} {h : Handle} (hs : DrainsAndLocksSound s)
    (hl : ∀ p l, s.lock p = some l → l.window ≠ h) : DrainsAndLocksSound (freeWindow h s) := by
  cases hw : s.window? h with
  | none => rwa [freeWindow_unmatched hw]
  | some w =>
    rw [freeWindow_matched hw]
    obtain ⟨⟨hnodup, hmem, hfew⟩, hlock, hone⟩ := drainsAndLocksSound_iff.1 hs
    have hother : ∀ x v, (s.emptied h w).window? x = some v ↔ x ≠ h ∧ s.window? x = some v := fun x v => by
      rw [window?_emptied hw]
      split <;> simp_all
    have hemptied : DrainsAndLocksSound (s.emptied h w) := by
      refine drainsAndLocksSound_iff.2 ⟨⟨?_, fun x => ?_, fun x v hv => ?_⟩, fun p l hp => ?_, hone⟩
      · exact List.Nodup.filter _ hnodup
      · show x ∈ s.engine.drainQueue.filter (· ≠ h) ↔ _
        unfold State.drains
        simp only [hother, List.mem_filter, hmem, decide_eq_true_eq, State.drains]
        constructor
        · rintro ⟨⟨v, hv, hd⟩, hx⟩; exact ⟨v, ⟨hx, hv⟩, hd⟩
        · rintro ⟨v, ⟨hx, hv⟩, hd⟩; exact ⟨⟨v, hv, hd⟩, hx⟩
      · exact hfew x v ((hother x v).1 hv).2
      · obtain ⟨v, hv, hd⟩ := hlock p l hp
        exact ⟨v, (hother _ v).2 ⟨hl p l hp, hv⟩, hd⟩
    have hd := dropView_eq w (s.emptied h w)
    exact hemptied.of_outline (by rw [hd]) (by rw [hd]) (agree_dropView w _)

theorem DrainsAndLocksSound.breakLock {s : State} (p : PortId) (hs : DrainsAndLocksSound s) :
    DrainsAndLocksSound (breakLock p s) :=
  hs.of_slots (by rw [breakLock_only]) (locksWithin_breakLock p s) (by rw [breakLock_only])

/-- After its lock is broken, no port has a window locked (R120, R124). -/
theorem DrainsAndLocksSound.breakWindowLock {s : State} (h : Handle) (hs : DrainsAndLocksSound s) :
    DrainsAndLocksSound (breakWindowLock h s) ∧
      ∀ q l, (breakWindowLock h s).lock q = some l → l.window ≠ h := by
  cases hh : s.lockHolder h with
  | none =>
    have e : Machine.breakWindowLock h s = s := by simp [Machine.breakWindowLock, hh]
    rw [e]
    have hl : s.isLocked h = false := by simp [State.isLocked, hh]
    refine ⟨hs, fun q l hq he => ?_⟩
    exact Bool.eq_false_iff.1 (isLocked_eq_false.1 hl q) (holds_iff.2 ⟨l, hq, he⟩)
  | some p =>
    have e : Machine.breakWindowLock h s = Machine.breakLock p s := by simp [Machine.breakWindowLock, hh]
    rw [e]
    refine ⟨hs.breakLock p, fun q l hq he => ?_⟩
    have hholds : s.holds p h = true := List.find?_some (p := fun p => s.holds p h) hh
    obtain ⟨m, hm, hmw⟩ := holds_iff.1 hholds
    rw [lock_breakLock] at hq
    split at hq
    · cases hq
    · rename_i hne
      exact hne (hs.2.2 p q m l hm hq (hmw.trans he.symm))

theorem locks_of_free_premise {s : State} {h : Handle} (hs : DrainsAndLocksSound s)
    (hl : s.isLocked h = false ∨ h ∈ s.engine.drainQueue) (p : PortId) (l : Lock) (hp : s.lock p = some l) :
    l.window ≠ h := by
  rintro rfl
  rcases hl with hl | hq
  · exact Bool.eq_false_iff.1 (isLocked_eq_false.1 hl p) (holds_iff.2 ⟨l, hp, rfl⟩)
  · exact State.lockable_not_drains (hs.2.1 p l hp) ((hs.1.2.1 _).1 hq)

theorem DrainsAndLocksSound.restartEvent {s : State} (hs : DrainsAndLocksSound s) :
    DrainsAndLocksSound (restartEvent s) := by
  refine drainsAndLocksSound_iff.2 ⟨⟨List.nodup_nil, fun h => ?_, fun h w hw => ?_⟩, fun p l hp => ?_,
    fun p q l m hp => ?_⟩
  · refine iff_of_false (by simp [Machine.restartEvent, restartEngine, Engine.cold]) ?_
    rintro ⟨w, hw, hd⟩
    rw [window?_restartEvent] at hw
    obtain ⟨v, hv, hw⟩ := Option.bind_eq_some_iff.1 hw
    split at hw
    · cases hw
    · rename_i hn
      cases hw
      rw [Window.draining_eq, drain?_restartWindow, ← Window.draining_eq] at hd
      exact hn hd
  · rw [window?_restartEvent] at hw
    obtain ⟨v, hv, hw⟩ := Option.bind_eq_some_iff.1 hw
    split at hw
    · cases hw
    · cases hw
      rw [drain?_restartWindow]
      exact fewAttempts_iff.2 hs.1.2.2 h v hv
  · rw [lock_restartEvent] at hp; cases hp
  · rw [lock_restartEvent] at hp; cases hp

theorem drainsAndLocksSound_of_empty {s : State} (hq : s.engine.drainQueue = [])
    (hi : ∀ i, (s.slot i).win = none) (hl : ∀ p, s.lock p = none) : DrainsAndLocksSound s := by
  have hw : ∀ h, s.window? h = none := fun h => by simp [State.window?, hi]
  refine drainsAndLocksSound_iff.2 ⟨⟨by rw [hq]; exact List.nodup_nil, fun h => ?_, fun h w hw' => ?_⟩,
    fun p l hp => ?_, fun p q l m hp => ?_⟩
  · simp [hq, State.drains, hw]
  · simp [hw] at hw'
  · simp [hl] at hp
  · simp [hl] at hp

/-! ### What the operations on the line sets leave of the queue and the locks -/

theorem markLine_engine (h : Handle) (n : Nat) (s : State) : (markLine h n s).engine = s.engine := by
  rcases markLine_cases h n s with e | ⟨w, l, -, -, -, ⟨-, e⟩ | ⟨-, e⟩⟩ <;> rw [e] <;> simp

theorem markLine_locks (h : Handle) (n : Nat) (s : State) : (markLine h n s).locks = s.locks := by
  rcases markLine_cases h n s with e | ⟨w, l, -, -, -, ⟨-, e⟩ | ⟨-, e⟩⟩ <;> rw [e] <;> simp

theorem mergeWork_engine (h : Handle) (s : State) : (mergeWork h s).engine = s.engine := by
  rcases mergeWork_cases h s with e | ⟨w, p, k, -, -, e⟩ <;> rw [e]
  simp

theorem mergeWork_locks (h : Handle) (s : State) : (mergeWork h s).locks = s.locks := by
  rcases mergeWork_cases h s with e | ⟨w, p, k, -, -, e⟩ <;> rw [e]
  simp

theorem flip_engine (r : PublishRecord) (s : State) : (flip r s).engine = s.engine := by
  rcases flip_cases r s with e | ⟨w, p, k, -, -, e⟩ <;> rw [e] <;> simp

theorem flip_locks (r : PublishRecord) (s : State) : (flip r s).locks = s.locks := by
  rcases flip_cases r s with e | ⟨w, p, k, -, -, e⟩ <;> rw [e] <;> simp

theorem setCopyPosition_engine (h : Handle) (n : Nat) (s : State) :
    (setCopyPosition h n s).engine = s.engine := by
  rcases setCopyPosition_cases h n s with e | ⟨w, p, k, -, -, e⟩ <;> rw [e]
  simp

theorem setCopyPosition_locks (h : Handle) (n : Nat) (s : State) :
    (setCopyPosition h n s).locks = s.locks := by
  rcases setCopyPosition_cases h n s with e | ⟨w, p, k, -, -, e⟩ <;> rw [e]
  simp

theorem collectCommand_engine (s : State) : (collectCommand s).engine = s.engine := by
  rcases collectCommand_cases s with ⟨st, e⟩ | ⟨h, w, live, -, ⟨-, e⟩ | ⟨l, -, e⟩⟩ <;> rw [e] <;>
    simp [refuseCommand]

theorem collectCommand_locks (s : State) : (collectCommand s).locks = s.locks := by
  rcases collectCommand_cases s with ⟨st, e⟩ | ⟨h, w, live, -, ⟨-, e⟩ | ⟨l, -, e⟩⟩ <;> rw [e] <;>
    simp [refuseCommand]

theorem kept_drainsAndLocksSound : Kept DrainsAndLocksSound where
  same h hs := hs.of_slots h.queue (.of_locks h.locks) h.slots
  store _ _ hs := hs
  mark h n hs := hs.of_outline (by rw [markLine_engine]) (markLine_locks h n _) (agree_markLine h n _)
  fill i w hs hi hw := hs.fill i w hi hw
  views n hs hp := hs.of_outline rfl rfl (agree_views n hp)
  rights rm wm g hs hw := hs.of_outline rfl rfl (agree_rights rm wm g hw)
  take hs _ hp := hs.of_outline rfl rfl (agree_take hp)
  unit _ hs _ := hs
  flip r hs := hs.of_agree (by rw [flip_engine]) (.of_locks (flip_locks r _))
    ((agree_flip r _).map fun x => (x.1.kind, x.2))
  merge h hs := hs.of_outline (by rw [mergeWork_engine]) (mergeWork_locks h _) (agree_mergeWork h _)
  position h n hs :=
    hs.of_outline (by rw [setCopyPosition_engine]) (setCopyPosition_locks h n _) (agree_setCopyPosition h n _)
  enter hs hp hd hl := hs.enter hp hd hl
  requeue hs hq hp h0 := hs.requeue hq hp h0
  pop hs hq hn := hs.pop hq hn
  free h hs hl _ := hs.free (locks_of_free_premise hs hl)
  freeBroken h hs _ := (hs.breakWindowLock h).1.free (hs.breakWindowLock h).2
  unlock p hs := hs.of_slots rfl (locksWithin_setLock p none fun l hl => by cases hl) rfl
  relock {s p l} ph t hs hl := hs.of_slots rfl
    (locksWithin_setLock p _ fun m hm => by cases hm; exact ⟨l, hl, rfl⟩) rfl
  lock p hs hw hv hd ho hp := hs.takeLock p hw hv hd ho hp
  guardFill _ _ hs _ _ _ _ _ := hs
  guardDrop _ hs := hs
  guardTrip _ hs _ := hs
  collect hs := hs.of_outline (by rw [collectCommand_engine]) (collectCommand_locks _) (agree_collectCommand _)
  restart hs := hs.restartEvent
  cold c z p f q _ := drainsAndLocksSound_of_empty rfl (fun i => by rw [slot_cold]) (lock_cold c z p _ f q)

end Sys2Proof.Machine

namespace Sys2Proof

open Machine

/-- Settles O55: a window enters the drain queue as it becomes DRAINING, and unlocked, and leaves it freed. -/
theorem stepKeepsDrainsAndLocksSound : Obligations.StepKeepsDrainsAndLocksSound :=
  fun _ _ hs ht => kept_drainsAndLocksSound.step hs _ ht

end Sys2Proof
end

section
/-! A second walk through the publish engine, for predicates that may read the command unit, the ports and the
publish record: what the choice, the reports, the triggers and the end of STOPPING keep. -/

namespace Sys2Proof.Machine

/-- No abandon with the cause RETIRED stands at the unit (R156). -/
def State.unretired (s : State) : Prop := ∀ r, s.pubUnit.record? = some r → AbandonCause.retired ∉ r.abandons

theorem unretired_of_ready {s : State} (h : s.pubUnit = .ready) : s.unretired := fun r hr => by
  rw [h] at hr
  cases hr

theorem unretired_congr {s t : State} (h : t.pubUnit = s.pubUnit) (hs : s.unretired) : t.unretired :=
  fun r hr => hs r (by rwa [← h])

/-- The predicate is kept by every elementary change that the publish engine makes. -/
structure EngineKept (P : State → Prop) : Prop where
  engineOnly : ∀ {s t}, EngineOnly s t → P s → P t
  complete : ∀ {s} st, P s → s.unretired → P (complete st [] s)
  ready : ∀ {s}, P s → P (unitReady s)
  startUnit : ∀ {s} h, P s → s.pubUnit = .ready → P (startUnit h s).1
  startHeld : ∀ {s} h, P s → s.pubUnit = .ready → P (startHeld h s)
  suspend : ∀ {s}, P s → P (requestSuspend s)
  merge : ∀ {s} h, P s → P (mergeWork h s)
  requeue : ∀ {s h q w p}, P s → s.engine.drainQueue = h :: q → s.paired? h = some (w, p) →
    p.drain.getD 0 = 0 →
    P (modEngine (fun e => { e with drainQueue := q ++ [h] })
      (s.setPaired h.index w { p with drain := some (p.drain.getD 0 + 1) }))
  pop : ∀ {s h q}, P s → s.engine.drainQueue = h :: q → s.paired? h = none →
    P (modEngine (fun e => { e with drainQueue := e.drainQueue.tail }) s)
  free : ∀ {s} h, P s → h ∈ s.engine.drainQueue → s.pubUnit = .ready → P (freeWindow h s)

namespace EngineKept

variable {P : State → Prop} (K : EngineKept P)
include K

/-! ### The choice at a window boundary -/

theorem raise {s : State} (e : Event) (hs : P s) : P (raise e s) := K.engineOnly (.raise e s) hs

theorem modEngine {s : State} {f : Engine → Engine} (h : (f s.engine).drainQueue = s.engine.drainQueue)
    (hs : P s) : P (modEngine f s) := K.engineOnly (.modEngine h) hs

theorem drainFree {s : State} (o : DrainOutcome) (h : Handle) (hs : P s) (hq : h ∈ s.engine.drainQueue)
    (hu : s.pubUnit = .ready) : P (drainFree o h s) :=
  K.raise _ (K.engineOnly ⟨rfl, rfl⟩ (K.free h hs hq hu))

theorem drainFailure {s : State} (h : Handle) (hs : P s) (hu : s.pubUnit = .ready) :
    P (drainFailure h s) := by
  unfold Machine.drainFailure
  split
  · exact hs
  · rename_i q qs hq
    split
    · rename_i hqh
      subst hqh
      split
      · exact hs
      · rename_i w p hp
        split
        · exact K.drainFree _ _ hs (by rw [hq]; simp) hu
        · exact K.requeue hs hq hp (by omega)
    · exact hs

theorem account {s : State} (pu : Purpose) (h : Handle) (rep : UnitReport) (hs : P s)
    (hu : s.pubUnit = .ready) : P (account pu h rep s) := by
  unfold Machine.account
  split
  · exact K.engineOnly (.modWork _ s) hs
  · exact K.engineOnly (.modUrgent _ s) hs
  · split
    · exact K.drainFailure h hs hu
    · exact hs

theorem conclude {s : State} (pu : Purpose) (h : Handle) (rep : UnitReport) (hs : P s) :
    P (conclude pu h rep s) := K.engineOnly (.conclude pu h rep s) hs

theorem startPublish {s : State} (pu : Purpose) (st : EngineState) (h : Handle) (hs : P s)
    (hu : s.pubUnit = .ready) : P (startPublish pu st h s).1 := by
  let u := Machine.modEngine (fun e => { e with state := st, heldFrom := none, purpose := some pu }) s
  have h1 : P (Machine.startUnit h u).1 := K.startUnit h (K.modEngine rfl hs) hu
  have h2 := @Kept.startUnit_ready u h
  unfold Machine.startPublish
  split
  · rename_i t ht
    rw [show Machine.startUnit h u = (t, false) from ht] at h1
    exact h1
  · rename_i t ht
    rw [show Machine.startUnit h u = (t, true) from ht] at h1 h2
    exact K.conclude _ _ _ (K.account _ _ _ (K.modEngine rfl h1) (h2 rfl))

theorem choice_engineOnly {s t : State} {b : Bool} (h : EngineOnly s t) (hs : P s)
    (hu : s.pubUnit = .ready) : Kept.Choice P (t, b) :=
  ⟨K.engineOnly h hs, fun _ => h.pubUnit.trans hu⟩

theorem choice_startPublish {s : State} (pu : Purpose) (st : EngineState) (h : Handle) (hs : P s)
    (hu : s.pubUnit = .ready) : Kept.Choice P (Machine.startPublish pu st h s) :=
  ⟨K.startPublish pu st h hs hu, Kept.startPublish_ready⟩

theorem processRegular {s : State} (h : Handle) (hs : P s) (hu : s.pubUnit = .ready) :
    Kept.Choice P (processRegular h s) := by
  unfold Machine.processRegular
  split
  · exact K.choice_engineOnly ((EngineOnly.modWork _ s).trans (.entryEnds _)) hs hu
  · split
    · exact K.choice_engineOnly ((EngineOnly.modWork _ s).trans (.entryEnds _)) hs hu
    · exact K.choice_startPublish _ _ h hs hu

theorem processUrgent {s : State} (h : Handle) (hs : P s) (hu : s.pubUnit = .ready) :
    Kept.Choice P (processUrgent h s) := by
  unfold Machine.processUrgent
  split
  · exact K.choice_engineOnly ((EngineOnly.modUrgent _ s).trans (.urgentEntryEnds _)) hs hu
  · split
    · exact K.choice_engineOnly ((EngineOnly.modUrgent _ s).trans (.urgentEntryEnds _)) hs hu
    · exact K.choice_startPublish _ _ h (K.engineOnly (.adopt h s) hs) hu

theorem drainStep {s : State} {h : Handle} {q : List Handle} (hq : s.engine.drainQueue = h :: q)
    (hs : P s) (hu : s.pubUnit = .ready) : Kept.Choice P (drainStep h s) := by
  unfold Machine.drainStep
  split
  · exact ⟨K.pop hs hq ‹_›, fun _ => hu⟩
  · split
    · exact ⟨K.drainFree _ _ hs (by rw [hq]; simp) hu, fun _ => by simpa using hu⟩
    · exact K.choice_startPublish _ _ h (K.engineOnly (.adopt h s) hs) hu

theorem resumeContext {s : State} (c : SuspendedCtx) (hs : P s) (hu : s.pubUnit = .ready) :
    Kept.Choice P (resumeContext c s) := by
  unfold Machine.resumeContext
  split
  · exact K.choice_engineOnly (.countContext _ _ s) hs hu
  · exact K.choice_engineOnly (.countContext _ _ s) hs hu
  · exact ⟨hs, fun h => by cases h⟩
  · split
    · exact K.choice_engineOnly (.countContext _ _ s) hs hu
    · split
      · exact ⟨K.startHeld _ (K.modEngine rfl hs) hu, fun h => by cases h⟩
      · exact K.choice_startPublish _ _ _ (K.engineOnly (.dropContext s) hs) hu

theorem choiceStep {s : State} (hs : P s) (hu : s.pubUnit = .ready) : Kept.Choice P (choiceStep s) := by
  unfold Machine.choiceStep
  split
  · split
    · exact K.choice_engineOnly (.writeUrgent _ s) hs hu
    · exact K.processUrgent _ hs hu
  · split
    · exact K.choice_engineOnly (.beginUrgent s) hs hu
    · split
      · exact K.drainStep ‹_› hs hu
      · split
        · exact K.resumeContext _ hs hu
        · split
          · split
            · exact K.choice_engineOnly (.beginPass s) hs hu
            · split
              · exact K.choice_engineOnly (.finishPass s) hs hu
              · exact K.processRegular _ hs hu
          · split
            · have pended : EngineOnly s (Machine.modEngine (fun e => { e with regularPending := false }) s) :=
                .modEngine rfl
              exact K.choice_engineOnly (pended.trans (.beginRun _)) hs hu
            · exact K.choice_engineOnly (.settleIdle s) hs hu

theorem choiceLoop {s : State} (n : Nat) (hs : P s) (hu : s.pubUnit = .ready) : P (choiceLoop n s) := by
  induction n generalizing s with
  | zero => exact hs
  | succ n ih =>
    have h := K.choiceStep hs hu
    unfold Machine.choiceLoop
    split
    · rename_i t ht
      rw [ht] at h
      exact ih h.1 (h.2 rfl)
    · rename_i t ht
      rw [ht] at h
      exact h.1

theorem boundaryChoice {s : State} (hs : P s) : P (boundaryChoice s) := by
  unfold Machine.boundaryChoice
  split
  · exact K.choiceLoop _ hs ‹_›
  · exact hs

/-! ### The reports and the end of STOPPING -/

theorem abandonContext {s : State} (hs : P s) : P (abandonContext s) := by
  unfold Machine.abandonContext
  split
  · exact hs
  · refine K.engineOnly (.dropContext _) ?_
    split
    · exact K.merge _ hs
    · exact hs

omit K in
@[simp] theorem abandonContext_pubUnit (s : State) : (Machine.abandonContext s).pubUnit = s.pubUnit := by
  unfold Machine.abandonContext
  split
  · rfl
  · rw [(EngineOnly.dropContext _).pubUnit]
    split <;> simp

theorem stopEnd {s : State} (hs : P s) (hr : s.unretired) : P (stopEnd s) := by
  refine K.boundaryChoice (K.complete _ (K.raise _ (K.engineOnly ⟨rfl, rfl⟩
    (K.engineOnly (.writeUrgent _ _) (K.engineOnly (.stopPass _) (K.abandonContext hs))))) ?_)
  refine unretired_congr ?_ hr
  show (writeUrgent .aborted (stopPass (Machine.abandonContext s))).pubUnit = s.pubUnit
  rw [(EngineOnly.writeUrgent _ _).pubUnit, (EngineOnly.stopPass _).pubUnit, abandonContext_pubUnit]

theorem takeReport {s : State} (h : Handle) (rep : UnitReport) (hs : P s) (hu : s.pubUnit = .ready) :
    P (takeReport h rep s) := by
  unfold Machine.takeReport
  split
  · exact hs
  · rename_i pu _
    have h1 : P (Machine.account pu h rep
        (Machine.modEngine (fun e => { e with purpose := none, heldFrom := none }) s)) :=
      K.account pu h rep (K.modEngine rfl hs) hu
    dsimp only
    split
    · exact K.stopEnd h1 (unretired_of_ready (by simpa [Machine.modEngine] using hu))
    · exact K.boundaryChoice (K.conclude _ _ _ h1)

theorem takeReport? {s : State} (h : Handle) (rep : Option UnitReport) (hs : P s)
    (hu : ∀ r, rep = some r → r ≠ .paused → s.pubUnit = .ready) : P (takeReport? h rep s) := by
  unfold Machine.takeReport?
  split
  · exact hs
  · exact K.engineOnly (.enterHeld s) hs
  · rename_i r hr
    exact K.takeReport _ _ hs (hu r rfl (by rintro rfl; exact hr rfl))

/-! ### The triggers and STOP -/

theorem regularTrigger {s : State} (hs : P s) : P (regularTrigger s).1 := by
  unfold Machine.regularTrigger
  split
  · exact K.raise _ hs
  · split
    · exact K.boundaryChoice (K.engineOnly (.beginRun s) hs)
    · exact K.engineOnly ⟨rfl, rfl⟩ hs

theorem suspendHeld {s : State} (hs : P s) : P (suspendHeld s) := by
  unfold Machine.suspendHeld
  split
  · exact K.takeReport _ _ (K.ready hs) rfl
  all_goals exact hs

theorem urgentTrigger {s : State} (hs : P s) : P (urgentTrigger s).1 := by
  unfold Machine.urgentTrigger
  split
  · exact K.raise _ hs
  · have ht : P (Machine.modEngine (fun e => { e with urgentRequested := true }) s) :=
      K.engineOnly ⟨rfl, rfl⟩ hs
    dsimp only
    split
    · exact K.boundaryChoice ht
    · exact K.suspend ht
    · exact K.suspendHeld ht
    all_goals exact ht

theorem abandonHeld {s : State} (c : AbandonCause) (hs : P s) : P (abandonHeld c s) := by
  unfold Machine.abandonHeld
  split
  · exact K.takeReport _ _ (K.ready (K.merge _ hs)) rfl
  all_goals exact hs

theorem stopHeld {s : State} (hs : P s) (hr : s.unretired) : P (stopHeld s) := by
  unfold Machine.stopHeld
  split
  · exact K.stopEnd (K.ready (K.merge _ hs)) (unretired_of_ready rfl)
  all_goals exact K.stopEnd hs hr

theorem orphanEnd {s : State} (hs : P s) : P (orphanEnd s) :=
  K.boundaryChoice (K.complete _ (K.ready hs) (unretired_of_ready rfl))

/-- The predicate is kept by an abandon asked of the unit, where the abandon itself keeps it. -/
theorem seqEffect {s : State} (abandon : ∀ {t}, P t → P (requestAbandon .seq t)) (hs : P s) :
    P (seqEffect s) := by
  unfold Machine.seqEffect
  split
  · exact K.engineOnly (.restartPass _) (K.abandonContext hs)
  · split
    · exact K.abandonHeld _ (K.engineOnly ⟨rfl, rfl⟩ hs)
    · split
      · exact abandon (K.engineOnly ⟨rfl, rfl⟩ hs)
      · split
        · split
          · exact K.engineOnly (.restartPass _) hs
          · exact K.engineOnly ((EngineOnly.writePass _ s).trans ⟨rfl, rfl⟩) hs
        · exact hs

theorem useqEffect {s : State} (abandon : ∀ {t}, P t → P (requestAbandon .useq t)) (hs : P s) :
    P (useqEffect s) := by
  unfold Machine.useqEffect
  split
  · exact hs
  · dsimp only
    split
    · exact K.abandonHeld _ (K.engineOnly ⟨rfl, rfl⟩ hs)
    · exact abandon (K.engineOnly ⟨rfl, rfl⟩ hs)

end EngineKept

end Sys2Proof.Machine
end

section
/-! O57: the law of the store port's grant (R40).  The commands leave what holds the store port; a copy under way
stays at the unit until its completion gives the port up; and a decision ends every event that can ask for one. -/

namespace Sys2Proof.Machine

/-! ### The engine leaves the ports and the grant -/

theorem SamePorts.refl (s : State) : SamePorts s s := ⟨rfl, rfl⟩

theorem SamePorts.of_engineOnly {s t : State} (h : EngineOnly s t) : SamePorts s t := ⟨h.ports, h.grant⟩

theorem mergeWork_samePorts (h : Handle) (s : State) : SamePorts s (mergeWork h s) := by
  rcases mergeWork_cases h s with e | ⟨w, p, k, -, -, e⟩ <;> rw [e] <;> exact ⟨rfl, rfl⟩

theorem flip_samePorts (r : PublishRecord) (s : State) : SamePorts s (flip r s) := by
  rcases flip_cases r s with e | ⟨w, p, k, -, -, e⟩ <;> rw [e] <;> exact ⟨rfl, rfl⟩

theorem setCopyPosition_samePorts (h : Handle) (n : Nat) (s : State) : SamePorts s (setCopyPosition h n s) := by
  rcases setCopyPosition_cases h n s with e | ⟨w, p, k, -, -, e⟩ <;> rw [e] <;> exact ⟨rfl, rfl⟩

theorem freeWindow_samePorts (h : Handle) (s : State) : SamePorts s (freeWindow h s) := by
  cases hw : s.window? h with
  | none => rw [freeWindow_unmatched hw]; exact ⟨rfl, rfl⟩
  | some w => rw [freeWindow_matched hw, dropView_eq]; exact ⟨rfl, rfl⟩

theorem breakWindowLock_samePorts (h : Handle) (s : State) : SamePorts s (breakWindowLock h s) := by
  rw [breakWindowLock_only]
  exact ⟨rfl, rfl⟩

theorem advance_samePorts (r : PublishRecord) (s : State) : SamePorts s (advance r s).1 := by
  unfold advance
  split
  · exact ⟨rfl, rfl⟩
  · split
    · exact ⟨rfl, rfl⟩
    · exact flip_samePorts r s

theorem startUnit_samePorts (h : Handle) (s : State) : SamePorts s (startUnit h s).1 := by
  unfold startUnit
  split
  · exact ⟨rfl, rfl⟩
  · exact SamePorts.trans (t := s.setPaired _ _ _) ⟨rfl, rfl⟩ (advance_samePorts _ _)

theorem startHeld_samePorts (h : Handle) (s : State) : SamePorts s (startHeld h s) := by
  unfold startHeld
  split <;> exact ⟨rfl, rfl⟩

theorem requestSuspend_samePorts (s : State) : SamePorts s (requestSuspend s) := by
  unfold requestSuspend
  split <;> exact ⟨rfl, rfl⟩

theorem requestAbandon_samePorts (c : AbandonCause) (s : State) : SamePorts s (requestAbandon c s) := by
  unfold requestAbandon
  split <;> exact ⟨rfl, rfl⟩

theorem engineKept_samePorts (s0 : State) : EngineKept (SamePorts s0) where
  engineOnly h hs := hs.trans (.of_engineOnly h)
  complete _ hs _ := hs
  ready hs := hs
  startUnit h hs _ := hs.trans (startUnit_samePorts h _)
  startHeld h hs _ := hs.trans (startHeld_samePorts h _)
  suspend hs := hs.trans (requestSuspend_samePorts _)
  merge h hs := hs.trans (mergeWork_samePorts h _)
  requeue hs _ _ _ := hs
  pop hs _ _ := hs
  free h hs _ _ := hs.trans (freeWindow_samePorts h _)

theorem retireAtBoundary_samePorts (h : Handle) (s : State) : SamePorts s (retireAtBoundary h s) :=
  SamePorts.trans (t := unitReady s) ⟨rfl, rfl⟩
    ((breakWindowLock_samePorts h _).trans (freeWindow_samePorts h _))

theorem abandonPublish_samePorts (h : Handle) (s : State) : SamePorts s (abandonPublish h s) :=
  mergeWork_samePorts h s

theorem boundaryAction_samePorts (q r : PublishRecord) (s : State) : SamePorts s (boundaryAction q r s).1 := by
  unfold boundaryAction
  split
  · split
    · exact retireAtBoundary_samePorts _ s
    · exact abandonPublish_samePorts _ s
  · split
    · exact ⟨rfl, rfl⟩
    · split
      · exact ⟨rfl, rfl⟩
      · have := advance_samePorts r s
        split <;> simp_all

theorem boundary_samePorts (b : Bool) (r : PublishRecord) (s : State) : SamePorts s (boundary b r s).1 := by
  unfold boundary
  split
  · unfold freeAfter
    split
    · exact (boundaryAction_samePorts _ _ s).trans (retireAtBoundary_samePorts _ _)
    · exact boundaryAction_samePorts _ _ s
  · exact boundaryAction_samePorts r r s

theorem offerFault_samePorts (f : FaultRecord) (s : State) : SamePorts s (offerFault f s) := by
  unfold offerFault
  split <;> exact ⟨rfl, rfl⟩

theorem failedBoundary_samePorts (r : PublishRecord) (a : Nat) (b : Bool) (s : State) :
    SamePorts s (failedBoundary r a b s).1 := by
  have ht : SamePorts s (raise .publishFault
      (offerFault (.lineCopy (BitVec.ofNat 32 a) b r.handle.index) s)) := offerFault_samePorts _ s
  unfold failedBoundary
  dsimp only
  split
  · exact ht.trans (retireAtBoundary_samePorts _ _)
  · exact ht.trans (abandonPublish_samePorts _ _)

/-! ### A copy under way stays at the unit -/

theorem not_ready_of_wantsStore {s : State} (h : s.pubUnit.wantsStore = true) : s.pubUnit ≠ .ready := by
  intro e
  rw [e] at h
  cases h

theorem boundaryChoice_copying {s : State} (h : s.pubUnit.wantsStore = true) : boundaryChoice s = s :=
  if_neg (not_ready_of_wantsStore h)

theorem requestAbandon_wantsStore (c : AbandonCause) (s : State) :
    (requestAbandon c s).pubUnit.wantsStore = s.pubUnit.wantsStore := by
  unfold requestAbandon
  split <;> rename_i e <;> simp [e, PubUnit.wantsStore]

theorem requestSuspend_wantsStore (s : State) :
    (requestSuspend s).pubUnit.wantsStore = s.pubUnit.wantsStore := by
  unfold requestSuspend
  split <;> rename_i e <;> simp [e, PubUnit.wantsStore]

/-- Where the choice would be made, a copy under way leaves the state as it is. -/
theorem boundaryChoice_wantsStore {s t : State} (ht : t.pubUnit = s.pubUnit)
    (h : s.pubUnit.wantsStore = true) : (boundaryChoice t).pubUnit.wantsStore = true := by
  rw [← ht] at h
  rw [boundaryChoice_copying h, h]

theorem suspendHeld_copying {s : State} (h : s.pubUnit.wantsStore = true) : suspendHeld s = s := by
  unfold suspendHeld
  split
  · rename_i e
    rw [e] at h
    cases h
  all_goals rfl

theorem abandonHeld_copying {s : State} (c : AbandonCause) (h : s.pubUnit.wantsStore = true) :
    abandonHeld c s = s := by
  unfold abandonHeld
  split
  · rename_i e
    rw [e] at h
    cases h
  all_goals rfl

theorem regularTrigger_copying {s : State} (h : s.pubUnit.wantsStore = true) :
    (regularTrigger s).1.pubUnit.wantsStore = true := by
  unfold regularTrigger
  split
  · exact h
  · split
    · exact boundaryChoice_wantsStore (EngineOnly.beginRun s).pubUnit h
    · exact h

theorem urgentTrigger_copying {s : State} (h : s.pubUnit.wantsStore = true) :
    (urgentTrigger s).1.pubUnit.wantsStore = true := by
  let t := modEngine (fun e => { e with urgentRequested := true }) s
  have ht : t.pubUnit.wantsStore = true := h
  unfold urgentTrigger
  split
  · exact h
  · dsimp only
    split
    · exact boundaryChoice_wantsStore (t := t) rfl h
    · exact (requestSuspend_wantsStore t).trans ht
    · exact (congrArg (fun x : State => x.pubUnit.wantsStore) (suspendHeld_copying ht)).trans ht
    all_goals exact h

theorem stopEnd_copying {s : State} (h : s.pubUnit.wantsStore = true) :
    (stopEnd s).pubUnit.wantsStore = true := by
  refine boundaryChoice_wantsStore ?_ h
  show (writeUrgent .aborted (stopPass (abandonContext s))).pubUnit = s.pubUnit
  rw [(EngineOnly.writeUrgent _ _).pubUnit, (EngineOnly.stopPass _).pubUnit, EngineKept.abandonContext_pubUnit]

theorem stopCommand_copying {s : State} (h : s.pubUnit.wantsStore = true) :
    (stopCommand s).pubUnit.wantsStore = true := by
  unfold stopCommand
  split
  · exact h
  · unfold stopHeld
    split
    · rename_i e
      rw [e] at h
      cases h
    all_goals exact stopEnd_copying h
  · exact (requestAbandon_wantsStore _ _).trans h
  · exact (requestAbandon_wantsStore _ _).trans h
  · exact (requestAbandon_wantsStore _ _).trans h
  · exact h

theorem seqEffect_copying {s : State} (h : s.pubUnit.wantsStore = true) :
    (seqEffect s).pubUnit.wantsStore = true := by
  unfold seqEffect
  split
  · rw [(EngineOnly.restartPass _).pubUnit, EngineKept.abandonContext_pubUnit]
    exact h
  · split
    · rw [abandonHeld_copying _ (by exact h)]
      exact h
    · split
      · exact (requestAbandon_wantsStore _ _).trans h
      · split
        · split
          · rw [(EngineOnly.restartPass _).pubUnit]; exact h
          · show (writePass _ s).pubUnit.wantsStore = true
            rw [(EngineOnly.writePass _ _).pubUnit]; exact h
        · exact h

theorem useqEffect_copying {s : State} (h : s.pubUnit.wantsStore = true) :
    (useqEffect s).pubUnit.wantsStore = true := by
  unfold useqEffect
  split
  · exact h
  · dsimp only
    split
    · rw [abandonHeld_copying _ (by exact h)]
      exact h
    · exact (requestAbandon_wantsStore _ _).trans h

theorem retirePaired_copying {s : State} (x : Handle) (h : s.pubUnit.wantsStore = true) :
    (retirePaired x s).pubUnit.wantsStore = true := by
  unfold retirePaired
  split
  · split
    · rename_i hp
      unfold State.pausedOn at hp
      split at hp
      · rename_i e
        rw [e] at h
        cases h
      all_goals cases hp
    · exact (requestAbandon_wantsStore _ _).trans h
  · show (freeWindow x s).pubUnit.wantsStore = true
    rw [freeWindow_pubUnit]
    exact h

theorem retireCommand_copying {s : State} (h : s.pubUnit.wantsStore = true) :
    (retireCommand s).pubUnit.wantsStore = true := by
  have now : ∀ x, (retireNow x s).pubUnit.wantsStore = true := fun x => by
    show (freeWindow x s).pubUnit.wantsStore = true
    rw [freeWindow_pubUnit]
    exact h
  unfold retireCommand
  dsimp only
  split
  · exact h
  · split
    · exact h
    · split
      · exact h
      · split
        · exact h
        · split
          · exact now _
          · exact now _
          · exact now _
          · split
            · exact h
            · split
              · unfold enterDraining
                dsimp only
                split
                · exact boundaryChoice_wantsStore rfl h
                · exact h
              · exact retirePaired_copying _ h

/-! ### What keeps the law -/

/-- The two states have the same accesses, the same holder of the store port, and the unit asks for the store
alike. -/
structure SameContenders (s t : State) : Prop where
  access : ∀ p, (t.port p).access = (s.port p).access
  grant : t.grant = s.grant
  unit : t.pubUnit.wantsStore = s.pubUnit.wantsStore

theorem waitingAccess_of_access {s t : State} {p : PortId} (h : (t.port p).access = (s.port p).access) :
    t.waitingAccess p = s.waitingAccess p := by
  unfold State.waitingAccess
  rw [h]

theorem atStore_of_access {s t : State} {p : PortId} (h : (t.port p).access = (s.port p).access) :
    t.atStore p = s.atStore p := by
  unfold State.atStore
  rw [h]

theorem SameContenders.of_ports {s t : State} (h : SamePorts s t) (hu : t.pubUnit = s.pubUnit) :
    SameContenders s t := ⟨fun p => by rw [port_congr h.1], h.2, by rw [hu]⟩

theorem SameContenders.trans {s t u : State} (h : SameContenders s t) (k : SameContenders t u) :
    SameContenders s u :=
  ⟨fun p => (k.access p).trans (h.access p), k.grant.trans h.grant, k.unit.trans h.unit⟩

theorem GrantSound.of_contenders {s t : State} (hs : GrantSound s) (h : SameContenders s t) : GrantSound t := by
  obtain ⟨hfree, hengine, hport⟩ := hs
  refine ⟨fun hg => ?_, fun hg => ?_, fun p => ?_⟩
  · obtain ⟨hp, hu⟩ := hfree (h.grant ▸ hg)
    refine ⟨fun p => (waitingAccess_of_access (h.access p)).trans (hp p), ?_⟩
    simpa [State.unitWaiting, h.unit, h.grant] using hu
  · rw [h.unit]
    exact hengine (h.grant ▸ hg)
  · rw [atStore_of_access (h.access p), h.grant]
    exact hport p

/-- What a command that ends with a decision must leave. -/
theorem GrantNamed.of_ports {s t : State} (hs : GrantNamed s) (h : SamePorts s t)
    (hu : s.pubUnit.wantsStore = true → t.pubUnit.wantsStore = true) : GrantNamed t :=
  ⟨fun hg => hu (hs.1 (h.2 ▸ hg)), fun p => by
    rw [atStore_congr (port_congr h.1 p), h.2]
    exact hs.2 p⟩

theorem GrantSound.decided {s t : State} (hs : GrantSound s) (h : SamePorts s t)
    (hu : s.pubUnit.wantsStore = true → t.pubUnit.wantsStore = true) : GrantSound (arbitrate t) :=
  arbitrate_grantSound (hs.named.of_ports h hu)

/-- With the store port held by no one and no access past its grant, a decision gives the law. -/
theorem grantSound_of_given_up {t : State} (hg : t.grant = none) (hp : ∀ p, t.atStore p = false) :
    GrantSound (arbitrate t) :=
  arbitrate_grantSound ⟨fun h => (by rw [hg] at h; cases h), fun p => by simp [hp p, hg]⟩

/-! ### The commands that ask for no decision -/

/-- What the commands that name no window's slot leave: the slots, the unit, what holds the store port, and of the
engine everything but its configuration and its pace timer. -/
structure Aside (s t : State) : Prop where
  slots : t.slots = s.slots
  pubUnit : t.pubUnit = s.pubUnit
  access : ∀ p, (t.port p).access = (s.port p).access
  grant : t.grant = s.grant
  inReset : t.inReset = s.inReset
  engine : ∃ c n, t.engine = { s.engine with config := c, paceTimer := n }

theorem Aside.of_eq {s t : State} (h : t = { s with
    ports := s.ports, groups := t.groups, events := t.events, cmd := t.cmd, locks := t.locks, guards := t.guards,
    continues := t.continues, holdLimit := t.holdLimit, fresh := t.fresh, store := t.store }) : Aside s t := by
  rw [h]
  exact ⟨rfl, rfl, fun _ => rfl, rfl, rfl, _, _, rfl⟩

theorem Aside.trans {s t u : State} (h : Aside s t) (k : Aside t u) : Aside s u := by
  obtain ⟨c, n, he⟩ := h.engine
  obtain ⟨d, m, ke⟩ := k.engine
  exact ⟨k.slots.trans h.slots, k.pubUnit.trans h.pubUnit, fun p => (k.access p).trans (h.access p),
    k.grant.trans h.grant, k.inReset.trans h.inReset, d, m, by rw [ke, he]⟩

theorem Aside.contenders {s t : State} (h : Aside s t) : SameContenders s t :=
  ⟨h.access, h.grant, by rw [h.pubUnit]⟩

theorem breakLock_aside (p : PortId) (s : State) : Aside s (breakLock p s) := by
  rw [breakLock_only]
  exact .of_eq rfl

theorem SameContenders.of_rfl {s t : State} (hp : t.ports = s.ports) (hg : t.grant = s.grant)
    (hu : t.pubUnit = s.pubUnit) : SameContenders s t := .of_ports ⟨hp, hg⟩ hu

theorem openCommand_contenders (s : State) : SameContenders s (openCommand s) := by
  unfold openCommand
  repeat' split
  all_goals exact .of_rfl rfl rfl rfl

theorem viewCommand_contenders (s : State) : SameContenders s (viewCommand s) := by
  unfold viewCommand
  dsimp only
  repeat' split
  all_goals exact .of_rfl rfl rfl rfl

theorem modifyCommand_contenders (s : State) : SameContenders s (modifyCommand s) := by
  unfold modifyCommand
  repeat' split
  all_goals exact .of_rfl rfl rfl rfl

theorem queryCommand_aside (s : State) : Aside s (queryCommand s) := by
  unfold queryCommand
  split <;> exact .of_eq rfl

theorem lookupCommand_aside (s : State) : Aside s (lookupCommand s) := by
  unfold lookupCommand
  repeat' split
  all_goals exact .of_eq rfl

theorem groupCommand_aside (s : State) : Aside s (groupCommand s) := by
  unfold groupCommand
  split <;> exact .of_eq rfl

theorem collectCommand_contenders (s : State) : SameContenders s (collectCommand s) := by
  rcases collectCommand_cases s with ⟨st, e⟩ | ⟨h, w, live, -, ⟨-, e⟩ | ⟨l, -, e⟩⟩ <;> rw [e] <;>
    exact .of_rfl rfl rfl rfl

theorem guardCommand_aside (s : State) : Aside s (guardCommand s) := by
  unfold guardCommand
  repeat' split
  all_goals exact .of_eq rfl

theorem unguardCommand_aside (s : State) : Aside s (unguardCommand s) := by
  unfold unguardCommand
  repeat' split
  all_goals exact .of_eq rfl

theorem guardqCommand_aside (s : State) : Aside s (guardqCommand s) := by
  unfold guardqCommand
  split
  · exact .of_eq rfl
  · refine Aside.trans (t := if bitAt (opr s 1) 0 then s.setGuard _ (clearTrip (s.guard _)) else s)
      ?_ (.of_eq rfl)
    split <;> exact .of_eq rfl

theorem engsetCommand_aside (s : State) : Aside s (engsetCommand s) := by
  unfold engsetCommand
  split
  · exact .of_eq rfl
  · split
    · exact .of_eq rfl
    · split
      · exact .of_eq rfl
      · exact ⟨rfl, rfl, fun _ => rfl, rfl, rfl, _, _, rfl⟩

theorem breakCommand_aside (s : State) : Aside s (breakCommand s) := by
  unfold breakCommand
  split
  · unfold breakOneForm
    split
    · exact .of_eq rfl
    · split
      · exact .of_eq rfl
      · exact (breakLock_aside _ s).trans (.of_eq rfl)
  · unfold setLimitForm
    repeat' split
    all_goals exact .of_eq rfl

theorem setPortState_aside (p : PortId) (st : PortState) (s : State) :
    Aside s (setPortState p st s) := by
  have enters : Aside s (s.setPort p { s.port p with state := st }) := by
    refine ⟨rfl, rfl, fun q => ?_, rfl, rfl, _, _, rfl⟩
    rw [port_setPort]
    split
    · rename_i e; rw [← e]
    · rfl
  unfold setPortState
  dsimp only
  split
  · exact enters
  · exact enters.trans (breakLock_aside p _)

theorem portCommand_aside (s : State) : Aside s (portCommand s) := by
  unfold portCommand
  split
  · exact (setPortState_aside _ _ s).trans (.of_eq rfl)
  · exact .of_eq rfl
  · exact .of_eq rfl

/-- A restart leaves a line copy in flight as it is, with its store access (R20, R83). -/
theorem restartUnit_wantsStore {s : State} (hi : IdleBankSound s) :
    (restartUnit s).wantsStore = s.pubUnit.wantsStore := by
  unfold restartUnit
  split <;> rename_i e
  · simp [e, PubUnit.wantsStore]
  · simp [e, PubUnit.wantsStore]
  · simp [e, PubUnit.wantsStore]
  · simp [e, PubUnit.wantsStore]
  all_goals
    obtain ⟨w, p, hp, -⟩ := hi _ (by rw [e]; rfl)
    simp [e, hp, PubUnit.wantsStore]

theorem restartCommand_contenders {s : State} (hi : IdleBankSound s) : SameContenders s (restartCommand s) := by
  have event : SameContenders s (restartEvent s) := ⟨fun _ => rfl, rfl, restartUnit_wantsStore hi⟩
  unfold restartCommand
  dsimp only
  split
  · exact event.trans (.of_rfl rfl rfl rfl)
  · exact event

theorem tickLock_aside (p : PortId) (s : State) : Aside s (tickLock p s) := by
  unfold tickLock
  split
  · exact .of_eq rfl
  · split
    · exact .of_eq rfl
    · split
      · exact breakLock_aside p s
      · exact .of_eq rfl

/-! ### The commands that end with a decision -/

theorem retireCommand_samePorts (s : State) : SamePorts s (retireCommand s) := by
  have now : ∀ x, SamePorts s (retireNow x s) := fun x => freeWindow_samePorts x s
  unfold retireCommand
  dsimp only
  split
  · exact ⟨rfl, rfl⟩
  · split
    · exact ⟨rfl, rfl⟩
    · split
      · exact ⟨rfl, rfl⟩
      · split
        · exact ⟨rfl, rfl⟩
        · split
          · exact now _
          · exact now _
          · exact now _
          · split
            · exact ⟨rfl, rfl⟩
            · split
              · unfold enterDraining
                dsimp only
                split
                · exact (engineKept_samePorts s).boundaryChoice ⟨rfl, rfl⟩
                · exact ⟨rfl, rfl⟩
              · unfold retirePaired
                split
                · split
                  · exact (engineKept_samePorts s).takeReport _ _
                      (freeWindow_samePorts _ (unitReady s)) (freeWindow_pubUnit _ _)
                  · exact requestAbandon_samePorts _ s
                · exact now _

theorem stopEnd_samePorts (s : State) : SamePorts s (stopEnd s) := by
  refine (engineKept_samePorts s).boundaryChoice ?_
  show SamePorts s (writeUrgent .aborted (stopPass (abandonContext s)))
  exact ((engineKept_samePorts s).abandonContext (.refl s)).trans
    (.of_engineOnly ((EngineOnly.stopPass _).trans (.writeUrgent .aborted _)))

theorem stopCommand_samePorts (s : State) : SamePorts s (stopCommand s) := by
  have stopping : SamePorts s (enterStopping s) := requestAbandon_samePorts _ _
  unfold stopCommand
  split
  · exact ⟨rfl, rfl⟩
  · unfold stopHeld
    split
    · exact (abandonPublish_samePorts _ s).trans (stopEnd_samePorts _)
    all_goals exact stopEnd_samePorts s
  · exact stopping
  · exact stopping
  · exact stopping
  · exact ⟨rfl, rfl⟩

theorem seqCommand_samePorts (cnt : BitVec 8) (s : State) : SamePorts s (seqCommand cnt s) := by
  unfold seqCommand
  split
  · exact ⟨rfl, rfl⟩
  · split
    · exact ⟨rfl, rfl⟩
    · exact (engineKept_samePorts s).seqEffect (fun h => h.trans (requestAbandon_samePorts _ _)) ⟨rfl, rfl⟩

theorem useqCommand_samePorts (cnt : BitVec 8) (s : State) : SamePorts s (useqCommand cnt s) := by
  unfold useqCommand
  split
  · exact ⟨rfl, rfl⟩
  · split
    · exact ⟨rfl, rfl⟩
    · exact (engineKept_samePorts s).useqEffect (fun h => h.trans (requestAbandon_samePorts _ _)) ⟨rfl, rfl⟩

theorem seqCommand_copying {s : State} (cnt : BitVec 8) (h : s.pubUnit.wantsStore = true) :
    (seqCommand cnt s).pubUnit.wantsStore = true := by
  unfold seqCommand
  split
  · exact h
  · split
    · exact h
    · exact seqEffect_copying h

theorem useqCommand_copying {s : State} (cnt : BitVec 8) (h : s.pubUnit.wantsStore = true) :
    (useqCommand cnt s).pubUnit.wantsStore = true := by
  unfold useqCommand
  split
  · exact h
  · split
    · exact h
    · exact useqEffect_copying h

/-! ### The accesses -/

/-- An access of a port with none in progress that is answered at once leaves no trace at the arbiter. -/
theorem respond_contenders (p : PortId) (r : Resp) (b : List Byte) {s t : State} (h : SamePorts s t)
    (hu : t.pubUnit = s.pubUnit) (hp : (s.port p).access = none) : SameContenders s (respond p r b t) := by
  refine ⟨fun q => ?_, h.2, by show t.pubUnit.wantsStore = _; rw [hu]⟩
  rw [respond, port_setPort]
  split
  · rename_i e
    rw [← e, hp]
  · rw [port_congr h.1]

theorem accessFault_pubUnit (p : PortId) (c : AccessClass) (a : Word) (r : Resp) (i : Option SlotId)
    (s : State) : (accessFault p c a r i s).pubUnit = s.pubUnit := (GrantOnly.accessFault p c a r i s).pubUnit

theorem takeAccess_grantSound {s : State} (p : PortId) (c : AccessClass) (z : AccessSize) (a : Word)
    (d : BitVec 64) (hp : (s.port p).access = none) (hs : GrantSound s) :
    GrantSound (takeAccess p c z a d s) := by
  have unhit : ∀ r, GrantSound (answerUnhit p c z (alignAddress a z) r s) := fun r =>
    hs.of_contenders (respond_contenders p r _ (SamePorts.accessFault p c _ r none s)
      (accessFault_pubUnit p c _ r none s) hp)
  unfold takeAccess
  dsimp only
  split
  · exact unhit _
  · split
    · exact unhit _
    · split
      · exact hs.of_contenders (respond_contenders p _ _ (SamePorts.accessFault p _ _ _ _ s)
          (accessFault_pubUnit p _ _ _ _ s) hp)
      · refine arbitrate_grantSound ⟨hs.2.1, fun q => ?_⟩
        by_cases hq : p = q
        · subst hq
          refine Iff.trans ?_ (hs.2.2 p)
          simp [State.atStore, hp]
        · rw [atStore_congr (s := s) (by rw [port_setPort, if_neg hq])]
          exact hs.2.2 q

theorem markWrite_samePorts (a : Access) (s : State) : SamePorts s (markWrite a s) := by
  unfold markWrite
  split
  · rcases markLine_cases a.handle a.line s with e | ⟨w, l, -, -, -, ⟨-, e⟩ | ⟨-, e⟩⟩ <;> rw [e] <;>
      exact ⟨rfl, rfl⟩
  · exact ⟨rfl, rfl⟩

theorem finishRelease_samePorts (p : PortId) (h : Handle) (s : State) : SamePorts s (finishRelease p h s) := by
  unfold finishRelease
  split
  · exact ⟨rfl, rfl⟩
  · split
    · exact SamePorts.trans (t := s.setLock p none) ⟨rfl, rfl⟩ (SamePorts.unlockNotice h _)
    · exact ⟨rfl, rfl⟩

theorem handOver_samePorts (p : PortId) (a : Access) (s : State) : SamePorts s (handOver p a s) := by
  unfold handOver
  dsimp only
  split
  · exact (markWrite_samePorts a s).trans (finishRelease_samePorts _ _ _)
  · exact markWrite_samePorts a s

theorem accessWrite_samePorts (a : Access) (x : Option Nat) (err : Bool) (s : State) :
    SamePorts s (accessWrite a x err s) := by
  unfold accessWrite
  repeat' split
  all_goals exact ⟨rfl, rfl⟩

/-- The answer of the access that held the store port gives the port up. -/
theorem answered_grantSound {s t : State} {p : PortId} (hs : GrantSound s) (hg : s.grant = some (.port p))
    (h : SamePorts s t) (a : Access) (r : Resp) (b : List Byte) :
    GrantSound (arbitrate (giveUp (answer p a r b t))) := by
  refine grantSound_of_given_up rfl fun q => ?_
  have hports := (SamePorts.trans h (SamePorts.accessFault p a.cls a.addr r (some a.handle.index) t)).1
  have hport : (giveUp (answer p a r b t)).port q =
      ((accessFault p a.cls a.addr r (some a.handle.index) t).setPort p
        { (accessFault p a.cls a.addr r (some a.handle.index) t).port p with
          access := none, response := some { code := r, bytes := b } }).port q := rfl
  by_cases hq : p = q
  · unfold State.atStore
    rw [hport, port_setPort, if_pos hq]
  · have hne : s.atStore q = false := by
      rw [Bool.eq_false_iff, Ne, hs.2.2 q, hg]
      simpa using hq
    rw [← hne]
    refine atStore_congr ?_
    rw [hport, port_setPort, if_neg hq, port_congr hports]

theorem grantedAccess_grant {s : State} {p : PortId} {i : InProgress} (h : s.grantedAccess = some (p, i)) :
    s.grant = some (.port p) := by
  unfold State.grantedAccess at h
  split at h
  · cases h
  · cases h
  · split at h
    · cases h
    · cases h
      assumption

theorem storeDone_grantSound {s : State} {p : PortId} (a : Access) (x : Option Nat) (err : Bool)
    (hs : GrantSound s) (hg : s.grant = some (.port p)) : GrantSound (storeDone p a x err s) := by
  unfold storeDone
  split
  · unfold readDone
    split
    · exact answered_grantSound (t := s) hs hg (.refl s) a .storeError _
    · exact answered_grantSound (t := { s with fresh := (accessRead a x s).2 }) hs hg ⟨rfl, rfl⟩ a .ok _
  · exact answered_grantSound hs hg ((accessWrite_samePorts a x err s).trans (handOver_samePorts p a _)) a _ _

theorem storeAccessDone_grantSound {s : State} (err : Bool) (hs : GrantSound s) :
    Goes GrantSound (storeAccessDone err s) := by
  unfold storeAccessDone
  split
  · exact Goes.next hs
  · rename_i p i hi
    split
    · exact Goes.next hs
    · exact Goes.next hs
    · split
      · exact Goes.next (storeDone_grantSound _ _ _ hs (grantedAccess_grant hi))
      · exact Goes.fault _

/-- The checks after a merging read refuse the write and give the store port back, or send it to the store. -/
theorem finishCheck_grantSound {s : State} {p : PortId} (a : Access) (cs : List (HeldGuard × Word)) (e : Nat)
    (hs : GrantSound s) (hg : s.grant = some (.port p)) :
    GrantSound (arbitrate (finishCheck p a cs e s)) := by
  obtain ⟨hothers, hport⟩ := granted_finishCheck p a cs e s
  have away : ∀ q, q ≠ p → (finishCheck p a cs e s).atStore q = false := fun q hq => by
    rw [atStore_congr (hothers q hq), Bool.eq_false_iff, Ne, hs.2.2 q, hg]
    simpa using Ne.symm hq
  rcases hport with ⟨hfree, hnone⟩ | ⟨hheld, hat⟩
  · refine grantSound_of_given_up hfree fun q => ?_
    by_cases hq : q = p
    · unfold State.atStore
      rw [hq, hnone]
    · exact away q hq
  · refine arbitrate_grantSound ⟨fun h => ?_, fun q => ?_⟩
    · rw [hheld, hg] at h
      cases h
    · rw [hheld, hg]
      by_cases hq : q = p
      · rw [hq]
        exact ⟨fun _ => rfl, fun _ => hat⟩
      · rw [away q hq]
        simpa using Ne.symm hq

theorem mergingReadDone_grantSound {s : State} (err : Bool) (e : Nat) (hs : GrantSound s) :
    Goes GrantSound (mergingReadDone err e s) := by
  unfold mergingReadDone
  split
  · exact Goes.next hs
  · rename_i p i hi
    have hg := grantedAccess_grant hi
    split
    · exact Goes.next hs
    · exact Goes.next hs
    · split
      · exact Goes.next hs
      · split
        · refine Goes.next ?_
          split
          · exact answered_grantSound hs hg (handOver_samePorts p i.acc s) _ _ _
          · exact finishCheck_grantSound _ _ _ hs hg
        · exact Goes.fault _

/-! ### Line copies and the continue -/

/-- The end of a copy's store access gives the store port up, whatever the unit makes of it. -/
theorem unitStep_grantSound {s : State} {f : State → State} (hs : GrantSound s) (hg : s.grant = some .engine)
    (hf : SamePorts (giveUp s) (f (giveUp s))) : Goes GrantSound (unitStep f s) := by
  refine Goes.next (grantSound_of_given_up hf.2 fun p => ?_)
  rw [atStore_congr (s := s) (port_congr hf.1 p), Bool.eq_false_iff, Ne, hs.2.2 p, hg]
  simp

theorem reportBoundary_samePorts {s : State} {x : State × Option UnitReport} (h : Handle)
    (hx : SamePorts s x.1) (hu : ∀ r, x.2 = some r → r ≠ .paused → x.1.pubUnit = .ready) :
    SamePorts s (reportBoundary h x) := (engineKept_samePorts s).takeReport? h x.2 hx hu

theorem copyReadDone_samePorts (r : PublishRecord) (n a len : Nat) (err : Bool) (s : State) :
    SamePorts s (copyReadDone r n a len err s) := by
  unfold copyReadDone
  split
  · exact reportBoundary_samePorts _ (failedBoundary_samePorts _ _ _ s)
      (fun _ _ _ => Kept.failedBoundary_ready _ _ _ _)
  · exact ⟨rfl, rfl⟩

theorem copyWriteDone_samePorts (r : PublishRecord) (n a : Nat) (bs : List Byte) (err early : Bool)
    (s : State) : SamePorts s (copyWriteDone r n a bs err early s) := by
  unfold copyWriteDone
  split
  · exact reportBoundary_samePorts _
      (SamePorts.trans (t := storeWriteFailed a bs.length s) ⟨rfl, rfl⟩ (failedBoundary_samePorts _ _ _ _))
      (fun _ _ _ => Kept.failedBoundary_ready _ _ _ _)
  · have hnote : SamePorts s (noteCopied (storeWrite a bs s)) :=
      SamePorts.trans (t := storeWrite a bs s) ⟨rfl, rfl⟩ (.of_engineOnly (.noteCopied _))
    exact reportBoundary_samePorts _
      ((hnote.trans (setCopyPosition_samePorts _ _ _)).trans (boundary_samePorts _ _ _))
      (fun _ h1 h2 => Kept.boundary_ready h1 h2)

theorem lineCopyReadDone_grantSound {s : State} (err : Bool) (hs : GrantSound s) :
    Goes GrantSound (lineCopyReadDone err s) := by
  unfold lineCopyReadDone
  split
  · rename_i hg
    split
    · exact Goes.next hs
    · exact Goes.next hs
    · exact Goes.next hs
    · exact Goes.next hs
    · split
      · exact unitStep_grantSound hs hg ⟨rfl, rfl⟩
      · split
        · exact unitStep_grantSound hs hg (copyReadDone_samePorts _ _ _ _ _ _)
        · exact Goes.fault _
    · split
      · refine unitStep_grantSound hs hg ?_
        unfold orphanReadDone
        split
        · exact (engineKept_samePorts _).orphanEnd ⟨rfl, rfl⟩
        · exact ⟨rfl, rfl⟩
      · exact Goes.fault _
  · exact Goes.next hs

theorem lineBoundary_grantSound {s : State} (err early : Bool) (hs : GrantSound s) :
    Goes GrantSound (lineBoundary err early s) := by
  unfold lineBoundary
  split
  · rename_i hg
    split
    · exact Goes.next hs
    · exact Goes.next hs
    · exact Goes.next hs
    · exact Goes.next hs
    · split
      · exact unitStep_grantSound hs hg ⟨rfl, rfl⟩
      · split
        · exact unitStep_grantSound hs hg (copyWriteDone_samePorts _ _ _ _ _ _ _)
        · exact Goes.fault _
    · split
      · refine unitStep_grantSound hs hg ((engineKept_samePorts _).orphanEnd ?_)
        split <;> exact ⟨rfl, rfl⟩
      · exact Goes.fault _
  · exact Goes.next hs

theorem leavePaused_samePorts (r : PublishRecord) (s : State) : SamePorts s (leavePaused r s) := by
  have hadv : SamePorts s (advance r (leaveHeld s)).1 :=
    (SamePorts.of_engineOnly (.leaveHeld s)).trans (advance_samePorts r _)
  have hready := @Kept.advance_ready (leaveHeld s) r
  unfold leavePaused
  split
  · rename_i t ht
    rw [ht] at hadv hready
    exact (engineKept_samePorts s).takeReport _ _ hadv (hready rfl)
  · rename_i t ht
    rw [ht] at hadv
    exact hadv

theorem takeContinue_grantSound {s : State} (hs : GrantSound s) : GrantSound (takeContinue s) := by
  have taken : GrantSound { s with continues := s.continues - 1 } := hs.of_contenders ⟨fun _ => rfl, rfl, rfl⟩
  unfold takeContinue
  dsimp only
  split
  · exact taken
  · exact taken
  · exact taken
  · exact taken
  · exact taken
  · rename_i r hu
    split
    · exact taken
    · refine hs.decided (SamePorts.trans (t := { s with continues := s.continues - 1 }) ⟨rfl, rfl⟩
        (leavePaused_samePorts r _)) fun hw => ?_
      rw [hu] at hw
      cases hw

/-! ### The rows and the step -/

theorem takeCommand_grantSound {s : State} {code cnt : BitVec 8} {body : State → State} (hs : GrantSound s)
    (h : GrantSound (acceptCommand code cnt s) → GrantSound (body (acceptCommand code cnt s))) :
    Goes GrantSound (takeCommand code cnt body s) := by
  refine Goes.whenRunning hs ?_
  split
  · exact Goes.next (hs.of_contenders ⟨fun _ => rfl, rfl, rfl⟩)
  · exact Goes.next (h (hs.of_contenders ⟨fun _ => rfl, rfl, rfl⟩))

/-- A command word's command keeps the law (R165). -/
theorem commandWordWrite_grantSound {s : State} (w : Word) (hi : IdleBankSound s) (hs : GrantSound s) :
    Goes GrantSound (commandWordWrite w s) := by
  have aside : ∀ {code cnt : BitVec 8} {body : State → State}, (∀ t, SameContenders t (body t)) →
      Goes GrantSound (takeCommand code cnt body s) := fun h =>
    takeCommand_grantSound hs fun ha => ha.of_contenders (h _)
  have decided : ∀ {code cnt : BitVec 8} {body : State → State}, (∀ t, SamePorts t (body t)) →
      (∀ t : State, t.pubUnit.wantsStore = true → (body t).pubUnit.wantsStore = true) →
      Goes GrantSound (takeCommand code cnt (fun t => arbitrate (body t)) s) := fun h hu =>
    takeCommand_grantSound hs fun ha => ha.decided (h _) (hu _)
  unfold commandWordWrite
  refine Goes.ite (aside openCommand_contenders) ?_
  refine Goes.ite (aside viewCommand_contenders) ?_
  refine Goes.ite (aside modifyCommand_contenders) ?_
  refine Goes.ite (decided retireCommand_samePorts fun _ => retireCommand_copying) ?_
  refine Goes.ite (aside fun t => (queryCommand_aside t).contenders) ?_
  refine Goes.ite (aside fun t => (lookupCommand_aside t).contenders) ?_
  refine Goes.ite (aside fun t => (groupCommand_aside t).contenders) ?_
  refine Goes.ite (aside collectCommand_contenders) ?_
  refine Goes.ite (aside fun t => (guardCommand_aside t).contenders) ?_
  refine Goes.ite (aside fun t => (unguardCommand_aside t).contenders) ?_
  refine Goes.ite (aside fun t => (guardqCommand_aside t).contenders) ?_
  refine Goes.ite (decided (seqCommand_samePorts _) fun _ => seqCommand_copying _) ?_
  refine Goes.ite (decided (useqCommand_samePorts _) fun _ => useqCommand_copying _) ?_
  refine Goes.ite (aside fun t => (engsetCommand_aside t).contenders) ?_
  refine Goes.ite (decided (fun t => (engineKept_samePorts t).regularTrigger (.refl t))
    fun _ => regularTrigger_copying) ?_
  refine Goes.ite (decided (fun t => (engineKept_samePorts t).urgentTrigger (.refl t))
    fun _ => urgentTrigger_copying) ?_
  refine Goes.ite (decided stopCommand_samePorts fun _ => stopCommand_copying) ?_
  refine Goes.ite (aside fun t => (breakCommand_aside t).contenders) ?_
  refine Goes.ite (aside fun t => (portCommand_aside t).contenders) ?_
  refine Goes.ite (takeCommand_grantSound hs fun ha =>
    ha.of_contenders (restartCommand_contenders (kept_idleBankSound.accept _ _ hi))) ?_
  exact aside fun _ => .of_rfl rfl rfl rfl

/-- A row that changes neither the ports, nor the grant, nor the unit. -/
theorem runningNext_grantSound {s : State} {f : State → State} (hs : GrantSound s)
    (h : SameContenders s (f s)) : Goes GrantSound (whenRunning (fun t => .next (f t)) s) :=
  Goes.whenRunning hs (Goes.next (hs.of_contenders h))

theorem clearFault_aside (v : Word) (s : State) : Aside s (clearFault v s) := by
  unfold clearFault
  split <;> exact .of_eq rfl

theorem managementWrite_grantSound {s : State} (a v : Word) (hi : IdleBankSound s) (hs : GrantSound s) :
    Goes GrantSound (managementWrite a v s) := by
  unfold managementWrite
  dsimp only
  split
  · exact commandWordWrite_grantSound v hi hs
  · split
    · exact runningNext_grantSound hs (.of_rfl rfl rfl rfl)
    · split
      · exact runningNext_grantSound hs (.of_rfl rfl rfl rfl)
      · split
        · exact runningNext_grantSound hs (clearFault_aside v s).contenders
        · split
          · exact runningNext_grantSound hs (.of_rfl rfl rfl rfl)
          · exact Goes.next hs

/-- The law after an event that the engine alone has a part in, and its decision. -/
theorem paceExpires_grantSound {s : State} (hs : GrantSound s) : GrantSound (paceExpires s) := by
  unfold paceExpires
  split
  · exact hs.decided ((engineKept_samePorts s).regularTrigger ⟨rfl, rfl⟩) fun h => regularTrigger_copying h
  · exact hs

theorem tickLocks_aside (s : State) : Aside s (tickLocks s) :=
  (tickLock_aside 0 s).trans ((tickLock_aside 1 _).trans ((tickLock_aside 2 _).trans (tickLock_aside 3 _)))

theorem holdExpires_aside (p : PortId) (s : State) : Aside s (holdExpires p s) := by
  unfold holdExpires
  split
  · exact breakLock_aside p s
  · exact .of_eq rfl

theorem tick_grantSound {s : State} (hs : GrantSound s) : GrantSound (tick s) := by
  have locks : GrantSound (tickLocks s) := hs.of_contenders (tickLocks_aside s).contenders
  unfold tick
  split
  · exact hs
  · unfold tickPace
    split
    · exact locks
    · split
      · exact paceExpires_grantSound locks
      · exact locks.of_contenders (.of_rfl rfl rfl rfl)

/-- A part with no access, no grant and a READY unit keeps the law. -/
theorem grantSound_of_idle {s : State} (hg : s.grant = none) (hp : ∀ p, (s.port p).access = none)
    (hu : s.pubUnit = .ready) : GrantSound s := by
  refine ⟨fun _ => ⟨fun p => by simp [State.waitingAccess, hp], by simp [State.unitWaiting, hu, PubUnit.wantsStore]⟩,
    fun h => ?_, fun p => by simp [State.atStore, hp, hg]⟩
  rw [hg] at h
  cases h

/-- Every command keeps the law. -/
theorem exec_grantSound {s : State} (c : Instr) (hi : IdleBankSound s) (hs : GrantSound s) :
    Goes GrantSound (exec c s) := by
  have aside : ∀ {code cnt : BitVec 8} {body : State → State}, (∀ t, SameContenders t (body t)) →
      Goes GrantSound (takeCommand code cnt body s) := fun h =>
    takeCommand_grantSound hs fun ha => ha.of_contenders (h _)
  have decided : ∀ {code cnt : BitVec 8} {body : State → State}, (∀ t, SamePorts t (body t)) →
      (∀ t : State, t.pubUnit.wantsStore = true → (body t).pubUnit.wantsStore = true) →
      Goes GrantSound (takeCommand code cnt (fun t => arbitrate (body t)) s) := fun h hu =>
    takeCommand_grantSound hs fun ha => ha.decided (h _) (hu _)
  cases c with
  | openWindow cnt => exact aside openCommand_contenders
  | openView cnt => exact aside viewCommand_contenders
  | modify cnt => exact aside modifyCommand_contenders
  | retire cnt => exact decided retireCommand_samePorts fun _ => retireCommand_copying
  | query cnt => exact aside fun t => (queryCommand_aside t).contenders
  | lookup cnt => exact aside fun t => (lookupCommand_aside t).contenders
  | group cnt => exact aside fun t => (groupCommand_aside t).contenders
  | collect cnt => exact aside collectCommand_contenders
  | guardSet cnt => exact aside fun t => (guardCommand_aside t).contenders
  | unguard cnt => exact aside fun t => (unguardCommand_aside t).contenders
  | guardq cnt => exact aside fun t => (guardqCommand_aside t).contenders
  | seq cnt => exact decided (seqCommand_samePorts cnt) fun _ => seqCommand_copying cnt
  | useq cnt => exact decided (useqCommand_samePorts cnt) fun _ => useqCommand_copying cnt
  | engset cnt => exact aside fun t => (engsetCommand_aside t).contenders
  | start cnt =>
    exact decided (fun t => (engineKept_samePorts t).regularTrigger (.refl t)) fun _ => regularTrigger_copying
  | urgent cnt =>
    exact decided (fun t => (engineKept_samePorts t).urgentTrigger (.refl t)) fun _ => urgentTrigger_copying
  | stop cnt => exact decided stopCommand_samePorts fun _ => stopCommand_copying
  | breakOne cnt => exact aside fun t => (breakCommand_aside t).contenders
  | setLimit cnt => exact aside fun t => (breakCommand_aside t).contenders
  | port cnt => exact aside fun t => (portCommand_aside t).contenders
  | restart cnt =>
    exact takeCommand_grantSound hs fun ha =>
      ha.of_contenders (restartCommand_contenders (kept_idleBankSound.accept _ _ hi))
  | unknownCommand w => exact commandWordWrite_grantSound w hi hs
  | commandWordIgnored w => exact commandWordWrite_grantSound w hi hs
  | operandWrite n v => exact runningNext_grantSound (f := writeOperand n v) hs (.of_rfl rfl rfl rfl)
  | eventClear v => exact runningNext_grantSound (f := clearEvents v) hs (.of_rfl rfl rfl rfl)
  | eventEnableWrite v => exact runningNext_grantSound (f := writeEnables v) hs (.of_rfl rfl rfl rfl)
  | faultClear v => exact runningNext_grantSound (f := clearFault v) hs (clearFault_aside v s).contenders
  | registerWriteDiscarded a v => exact managementWrite_grantSound a v hi hs
  | trigREdge =>
    refine Goes.whenRunning (f := fun t => .next (trigR t)) hs (Goes.next ?_)
    unfold trigR
    split
    · exact hs.decided ((engineKept_samePorts s).regularTrigger (.refl s)) regularTrigger_copying
    · exact hs
  | trigUEdge =>
    refine Goes.whenRunning (f := fun t => .next (trigU t)) hs (Goes.next ?_)
    unfold trigU
    split
    · exact hs.decided ((engineKept_samePorts s).urgentTrigger (.refl s)) urgentTrigger_copying
    · exact hs
  | paceExpiry =>
    exact Goes.whenRunning (f := fun t => .next (paceExpires t)) hs (Goes.next (paceExpires_grantSound hs))
  | holdTimerExpiry p =>
    exact runningNext_grantSound (f := holdExpires p) hs (holdExpires_aside p s).contenders
  | coldReset c =>
    refine Goes.next (grantSound_of_idle rfl (fun p => ?_) rfl)
    simp [coldResetBegins, State.port, endAccess]
  | coldResetEnd z p =>
    show Goes GrantSound (execColdResetEnd z p s)
    unfold execColdResetEnd
    split
    · exact Goes.next hs
    · exact Goes.next (grantSound_of_idle rfl (fun q => by simp [State.cold, State.port, portStart]) rfl)
  | requesterAccess p c z a d =>
    show Goes GrantSound (execRequester p c z a d s)
    unfold execRequester
    refine Goes.whenRunning hs ?_
    split
    · exact Goes.next hs
    · rename_i hp
      exact Goes.next (takeAccess_grantSound p c z a d (by simpa using hp) hs)
  | storeAccessDone e => exact Goes.whenRunning hs (storeAccessDone_grantSound e hs)
  | mergingReadDone e t => exact Goes.whenRunning hs (mergingReadDone_grantSound e t hs)
  | lineCopyReadDone e => exact Goes.whenRunning hs (lineCopyReadDone_grantSound e hs)
  | lineBoundary e => exact Goes.whenRunning hs (lineBoundary_grantSound e.err e.early hs)
  | continuePublish =>
    show Goes GrantSound (execContinue s)
    unfold execContinue
    refine Goes.whenRunning hs ?_
    split
    · exact Goes.next hs
    · exact Goes.next (takeContinue_grantSound hs)

end Sys2Proof.Machine

namespace Sys2Proof

open Machine

/-- Settles O57: by the command, with the decision that ends its event giving the law anew. -/
theorem stepKeepsTheGrantSound : Obligations.StepKeepsTheGrantSound := by
  intro s t hi hs ht
  unfold step at ht
  split at ht
  · exact Goes.next (tick_grantSound hs) t ht
  · rename_i c q _
    have dequeued : GrantSound { s with pending := q } := hs.of_contenders ⟨fun _ => rfl, rfl, rfl⟩
    exact exec_grantSound c (s := { s with pending := q }) hi dequeued t ht

end Sys2Proof
end

section
/-! O58: views and view counts (R3, R17, R156).  The law of the slots, the links from views to their sources, and
the law of a waiting RETIRE are kept apart: the second reads the command unit and the publish record. -/

namespace Sys2Proof.Machine

/-! ### The links from views to their sources -/

/-- The source of a VIEW. -/
def Window.source? (w : Window) : Option Handle :=
  match w.body with
  | .plain _ => none
  | .tracked _ _ => none
  | .paired _ => none
  | .view h => some h

/-- The view count of a PAIRED window. -/
def Window.views? (w : Window) : Option Nat :=
  match w.body with
  | .plain _ => none
  | .tracked _ _ => none
  | .paired p => some p.views
  | .view _ => none

/-- What the law reads of a window; the write mask of a VIEW alone. -/
structure Links where
  source : Option Handle
  mask : BitVec 4
  views : Option Nat
  draining : Bool

def Window.links (w : Window) : Links :=
  { source := w.source?, mask := if w.source?.isSome then w.writeMask else 0, views := w.views?,
    draining := w.draining }

theorem Window.source?_eq_some {w : Window} {h : Handle} : w.source? = some h ↔ w.body = .view h := by
  unfold Window.source?
  cases hb : w.body <;> simp

theorem Window.views?_eq_some {w : Window} {n : Nat} :
    w.views? = some n ↔ ∃ p, w.body = .paired p ∧ p.views = n := by
  unfold Window.views?
  cases hb : w.body <;> simp

theorem Window.source_of_links {w v : Window} (h : w.links = v.links) : w.source? = v.source? :=
  congrArg Links.source h

theorem Window.views_of_links {w v : Window} (h : w.links = v.links) : w.views? = v.views? :=
  congrArg Links.views h

theorem Window.draining_of_links {w v : Window} (h : w.links = v.links) : w.draining = v.draining :=
  congrArg Links.draining h

theorem Window.writeMask_of_links {w v : Window} {src : Handle} (h : w.links = v.links)
    (hs : v.source? = some src) : w.writeMask = v.writeMask := by
  have hm : w.links.mask = v.links.mask := congrArg Links.mask h
  simpa [Window.links, Window.source_of_links h, hs] using hm

theorem Slot.views_eq (h : Handle) (x : Slot) : x.views h = decide (x.win.bind Window.source? = some h) := by
  unfold Slot.views Window.source?
  cases hx : x.win with
  | none => simp
  | some w => cases hb : w.body <;> simp [hb, BEq.beq]

/-- A PAIRED ACTIVE window, which may be a source (R17). -/
def State.viewable (s : State) (h : Handle) : Prop :=
  ∃ v, s.window? h = some v ∧ v.views?.isSome = true ∧ v.draining = false

theorem viewable_iff {s : State} {h : Handle} :
    s.viewable h ↔ ∃ v p, s.paired? h = some (v, p) ∧ p.drain = none := by
  constructor
  · rintro ⟨v, hv, hviews, hd⟩
    obtain ⟨n, hn⟩ := Option.isSome_iff_exists.1 hviews
    obtain ⟨p, hb, -⟩ := Window.views?_eq_some.1 hn
    refine ⟨v, p, paired?_eq_some.2 ⟨hv, hb⟩, ?_⟩
    simpa [Window.draining, hb] using hd
  · rintro ⟨v, p, hp, hd⟩
    obtain ⟨hv, hb⟩ := paired?_eq_some.1 hp
    exact ⟨v, hv, by simp [Window.views?, hb], by simp [Window.draining, hb, hd]⟩

/-- The law of the slots: each VIEW has an empty write mask and a source, and view counts are right. -/
structure LinksSound (s : State) : Prop where
  source : ∀ i w src, (s.slot i).win = some w → w.source? = some src → w.writeMask = 0 ∧ s.viewable src
  count : ∀ h w n, s.window? h = some w → w.views? = some n → n = s.viewsOf h

/-- The handle matches no PAIRED window with a view (R156). -/
def NoViews (h : Handle) (s : State) : Prop := ∀ w n, s.window? h = some w → w.views? = some n → n = 0

/-- The law of a waiting RETIRE: the command unit is BUSY, and its window has no views. -/
def RetireSound (s : State) : Prop :=
  ∀ r, s.pubUnit.record? = some r → AbandonCause.retired ∈ r.abandons → s.cmd.busy = true ∧ NoViews r.handle s

theorem noViews_iff {s : State} {h : Handle} :
    NoViews h s ↔ ∀ w p, s.paired? h = some (w, p) → p.views = 0 := by
  constructor
  · intro hn w p hp
    obtain ⟨hw, hb⟩ := paired?_eq_some.1 hp
    exact hn w p.views hw (Window.views?_eq_some.2 ⟨p, hb, rfl⟩)
  · intro hn w n hw hv
    obtain ⟨p, hb, rfl⟩ := Window.views?_eq_some.1 hv
    exact hn w p (paired?_eq_some.2 ⟨hw, hb⟩)

theorem viewsSound_iff {s : State} : ViewsSound s ↔ LinksSound s ∧ RetireSound s := by
  constructor
  · rintro ⟨hsource, hcount, hretire⟩
    refine ⟨⟨fun i w src hw hs => ?_, fun h w n hw hn => ?_⟩, fun r hr hx => ?_⟩
    · obtain ⟨hm, v, p, hp⟩ := hsource i w src hw (Window.source?_eq_some.1 hs)
      exact ⟨hm, viewable_iff.2 ⟨v, p, hp⟩⟩
    · obtain ⟨p, hb, rfl⟩ := Window.views?_eq_some.1 hn
      exact hcount h w p (paired?_eq_some.2 ⟨hw, hb⟩)
    · obtain ⟨hb, hn⟩ := hretire r hr hx
      exact ⟨hb, noViews_iff.2 hn⟩
  · rintro ⟨⟨hsource, hcount⟩, hretire⟩
    refine ⟨fun i w src hw hb => ?_, fun h w p hp => ?_, fun r hr hx => ?_⟩
    · obtain ⟨hm, hv⟩ := hsource i w src hw (Window.source?_eq_some.2 hb)
      exact ⟨hm, viewable_iff.1 hv⟩
    · obtain ⟨hw, hb⟩ := paired?_eq_some.1 hp
      exact hcount h w p.views hw (Window.views?_eq_some.2 ⟨p, hb, rfl⟩)
    · obtain ⟨hb, hn⟩ := hretire r hr hx
      exact ⟨hb, noViews_iff.1 hn⟩

/-! ### Counting views -/

/-- What one slot adds to a view count. -/
def Slot.viewCount (h : Handle) (x : Slot) : Nat := if x.win.bind Window.source? = some h then 1 else 0

theorem viewsOf_eq_sum (s : State) (h : Handle) : s.viewsOf h = ∑ i : SlotId, (s.slot i).viewCount h := by
  have count : ∀ l : List SlotId, (l.filter fun i => (s.slot i).views h).length =
      (l.map fun i => (s.slot i).viewCount h).sum := fun l => by
    induction l with
    | nil => rfl
    | cons i l ih =>
      rw [List.map_cons, List.sum_cons, ← ih, List.filter_cons, Slot.views_eq, Slot.viewCount]
      split <;> simp_all [Nat.add_comm]
  rw [Fin.sum_univ_def]
  exact count _

theorem viewsOf_congr {s t : State} (h : t.slots = s.slots) (x : Handle) : t.viewsOf x = s.viewsOf x := by
  simp [State.viewsOf, slot_congr h]

theorem viewsOf_agree {s t : State} (ha : Agree Window.links s t) (h : Handle) : t.viewsOf h = s.viewsOf h := by
  rw [viewsOf_eq_sum, viewsOf_eq_sum]
  refine Finset.sum_congr rfl fun i _ => ?_
  have hs := ((ha.map Links.source) i).2
  have e : (t.slot i).win.bind Window.source? = (s.slot i).win.bind Window.source? := by
    cases ht : (t.slot i).win <;> cases hw : (s.slot i).win <;> simp_all [Window.links]
  simp only [Slot.viewCount, e]

/-- Replacing one slot changes a view count by the difference of that slot. -/
theorem viewsOf_setSlot (i : SlotId) (x : Slot) (s : State) (h : Handle) :
    (s.setSlot i x).viewsOf h + (s.slot i).viewCount h = s.viewsOf h + x.viewCount h := by
  rw [viewsOf_eq_sum, viewsOf_eq_sum, ← Finset.add_sum_erase _ _ (Finset.mem_univ i),
    ← Finset.add_sum_erase (a := i) _ (fun j => (s.slot j).viewCount h) (Finset.mem_univ i)]
  have others : ∑ j ∈ Finset.univ.erase i, ((s.setSlot i x).slot j).viewCount h =
      ∑ j ∈ Finset.univ.erase i, (s.slot j).viewCount h :=
    Finset.sum_congr rfl fun j hj => by rw [slot_setSlot_other x s (Finset.ne_of_mem_erase hj).symm]
  rw [others, slot_setSlot_same]
  omega

theorem viewsOf_eq_zero {s : State} {h : Handle} :
    s.viewsOf h = 0 ↔ ∀ i w, (s.slot i).win = some w → w.source? ≠ some h := by
  rw [viewsOf_eq_sum, Finset.sum_eq_zero_iff]
  constructor
  · intro hz i w hw hs
    have := hz i (Finset.mem_univ i)
    simp [Slot.viewCount, hw, hs] at this
  · intro hn i _
    cases hw : (s.slot i).win with
    | none => simp [Slot.viewCount, hw]
    | some w => simp [Slot.viewCount, hw, hn i w hw]

/-- A handle that matches no window, or none that may be a source, is no view's source. -/
theorem LinksSound.viewsOf_zero {s : State} (hs : LinksSound s) {h : Handle} (hn : ¬s.viewable h) :
    s.viewsOf h = 0 :=
  viewsOf_eq_zero.2 fun i w hw hsrc => hn (hs.source i w h hw hsrc).2

theorem LinksSound.source_ne {s : State} (hs : LinksSound s) {h : Handle} {w : Window}
    (hw : s.window? h = some w) (hn : NoViews h s) {i : SlotId} {v : Window} {src : Handle}
    (hv : (s.slot i).win = some v) (hsrc : v.source? = some src) : src ≠ h := by
  rintro rfl
  obtain ⟨x, hx, hviews, -⟩ := (hs.source i v src hv hsrc).2
  rw [hw] at hx
  cases hx
  obtain ⟨n, hv'⟩ := Option.isSome_iff_exists.1 hviews
  have hz : s.viewsOf src = 0 := by rw [← hs.count src w n hw hv', hn w n hw hv']
  exact viewsOf_eq_zero.1 hz i v hv hsrc

/-! ### Changes of the slots that keep the links -/

theorem LinksSound.of_agree {s t : State} (hs : LinksSound s) (ha : Agree Window.links s t) : LinksSound t := by
  refine ⟨fun i w src hw hsrc => ?_, fun h w n hw hn => ?_⟩
  · obtain ⟨v, hv, e⟩ := ha.win hw
    obtain ⟨hm, x, hx, hviews, hd⟩ := hs.source i v src hv ((Window.source_of_links e).trans hsrc)
    obtain ⟨y, hy, e'⟩ := ha.symm.window? hx
    exact ⟨(Window.writeMask_of_links e hsrc).symm.trans hm,
      y, hy, by rw [Window.views_of_links e', hviews], by rw [Window.draining_of_links e', hd]⟩
  · obtain ⟨v, hv, e⟩ := ha.window? hw
    rw [viewsOf_agree ha]
    exact hs.count h v n hv ((Window.views_of_links e).trans hn)

theorem NoViews.of_agree {s t : State} {h : Handle} (hs : NoViews h s) (ha : Agree Window.links s t) :
    NoViews h t := fun w n hw hn => by
  obtain ⟨v, hv, e⟩ := ha.window? hw
  exact hs v n hv ((Window.views_of_links e).trans hn)

/-- A change of the PAIRED fields that keeps the view count and the drain. -/
theorem links_paired {w : Window} {p p' : Paired} (hb : w.body = .paired p) (hv : p'.views = p.views)
    (hd : p'.drain.isSome = p.drain.isSome) : Window.links { w with body := .paired p' } = w.links := by
  simp [Window.links, Window.source?, Window.views?, Window.draining, hb, hv, hd]

theorem agreeLinks_setPaired {s : State} {h : Handle} {w : Window} {p p' : Paired}
    (hp : s.paired? h = some (w, p)) (hv : p'.views = p.views) (hd : p'.drain.isSome = p.drain.isSome) :
    Agree Window.links s (s.setPaired h.index w p') :=
  agree_setPaired hp (links_paired (paired?_eq_some.1 hp).2 hv hd)

theorem links_setDirty (w : Window) (d : LineSet) : (w.setDirty d).links = w.links := by
  unfold Window.setDirty
  cases hb : w.body <;> simp [Window.links, Window.source?, Window.views?, Window.draining, hb]

theorem agreeLinks_markLine (h : Handle) (n : Nat) (s : State) : Agree Window.links s (markLine h n s) := by
  rcases markLine_cases h n s with e | ⟨w, l, hw, -, -, ⟨-, e⟩ | ⟨-, e⟩⟩ <;> rw [e]
  · exact .of_slots rfl
  · exact (agree_setWindow (window?_eq_some.1 hw).2 (links_setDirty w _)).trans (.of_slots rfl)
  · exact (agree_setWindow (window?_eq_some.1 hw).2 (links_setDirty w _)).trans (.of_slots rfl)

theorem agreeLinks_mergeWork (h : Handle) (s : State) : Agree Window.links s (mergeWork h s) := by
  rcases mergeWork_cases h s with e | ⟨w, p, k, hp, -, e⟩ <;> rw [e]
  · exact .of_slots rfl
  · exact (agreeLinks_setPaired (p' := { p with dirty := p.dirty.union k.set, work := none }) hp rfl rfl).trans
      (.of_slots rfl)

theorem agreeLinks_flip (r : PublishRecord) (s : State) : Agree Window.links s (flip r s) := by
  rcases flip_cases r s with e | ⟨w, p, k, hp, -, e⟩ <;> rw [e]
  · exact .of_slots rfl
  · exact (agreeLinks_setPaired (p' := p.flipTo r.idle k) hp rfl rfl).trans (.of_slots rfl)

theorem agreeLinks_setCopyPosition (h : Handle) (n : Nat) (s : State) :
    Agree Window.links s (setCopyPosition h n s) := by
  rcases setCopyPosition_cases h n s with e | ⟨w, p, k, hp, -, e⟩ <;> rw [e]
  · exact .of_slots rfl
  · exact agreeLinks_setPaired hp rfl rfl

theorem agreeLinks_take {s : State} {h : Handle} {w : Window} {p : Paired} (hp : s.paired? h = some (w, p)) :
    Agree Window.links s (s.setPaired h.index w p.take) := by
  refine agreeLinks_setPaired hp ?_ ?_ <;> (unfold Paired.take; split <;> rfl)

theorem agreeLinks_collectCommand (s : State) : Agree Window.links s (collectCommand s) := by
  rcases collectCommand_cases s with ⟨st, e⟩ | ⟨h, w, live, hw, ⟨hb, e⟩ | ⟨l, hb, e⟩⟩ <;> rw [e]
  · exact .of_slots rfl
  all_goals
    refine (agree_setWindow (window?_eq_some.1 hw).2 ?_).trans (.of_slots rfl)
    simp [Window.links, Window.source?, Window.views?, Window.draining, hb]

theorem agreeLinks_advance (r : PublishRecord) (s : State) : Agree Window.links s (advance r s).1 := by
  unfold advance
  split
  · exact .of_slots rfl
  · split
    · exact .of_slots rfl
    · exact agreeLinks_flip r s

theorem agreeLinks_startUnit (h : Handle) (s : State) : Agree Window.links s (startUnit h s).1 := by
  unfold startUnit
  split
  · exact .of_slots rfl
  · exact (agreeLinks_take ‹_›).trans (agreeLinks_advance _ _)

theorem agreeLinks_startHeld (h : Handle) (s : State) : Agree Window.links s (startHeld h s) := by
  unfold startHeld
  split
  · exact .of_slots rfl
  · exact (agreeLinks_take ‹_›).trans (.of_slots rfl)

/-- A change of the PAIRED fields leaves every VIEW its source. -/
theorem source?_setPaired {s : State} {h : Handle} {w : Window} {p : Paired} (p' : Paired)
    (hp : s.paired? h = some (w, p)) (i : SlotId) :
    ((s.setPaired h.index w p').slot i).win.bind Window.source? = (s.slot i).win.bind Window.source? := by
  obtain ⟨hw, hb⟩ := paired?_eq_some.1 hp
  rw [slot_setPaired]
  split
  · rename_i e
    rw [← e, (window?_eq_some.1 hw).2]
    simp [Window.source?, hb]
  · rfl

theorem viewsOf_setPaired {s : State} {h : Handle} {w : Window} {p : Paired} (p' : Paired)
    (hp : s.paired? h = some (w, p)) (x : Handle) : (s.setPaired h.index w p').viewsOf x = s.viewsOf x := by
  simp only [viewsOf_eq_sum, Slot.viewCount, source?_setPaired p' hp]

/-- A VIEW after a change of the PAIRED fields stood there before it. -/
theorem view_of_setPaired {s : State} {h : Handle} {w : Window} {p' : Paired} {i : SlotId} {v : Window}
    {src : Handle} (hv : ((s.setPaired h.index w p').slot i).win = some v) (hs : v.source? = some src) :
    (s.slot i).win = some v := by
  rw [slot_setPaired] at hv
  split at hv
  · cases hv
    simp [Window.source?] at hs
  · exact hv

/-! ### Filling a slot -/

theorem viewable_fillSlot {s : State} {i : SlotId} {w : Window} {h : Handle} (hi : (s.slot i).win = none)
    (hv : s.viewable h) : (fillSlot i w s).viewable h := by
  obtain ⟨v, hv, hx⟩ := hv
  exact ⟨v, window?_fillSlot w hi hv, hx⟩

theorem viewsOf_fillSlot {s : State} {i : SlotId} (w : Window) (hi : (s.slot i).win = none) (h : Handle) :
    (fillSlot i w s).viewsOf h = s.viewsOf h + if w.source? = some h then 1 else 0 := by
  have e := viewsOf_setSlot i { inst := (s.slot i).inst + 1, win := some w } s h
  have hz : (s.slot i).viewCount h = 0 := by simp [Slot.viewCount, hi]
  have hm : Slot.viewCount h { inst := (s.slot i).inst + 1, win := some w } =
      if w.source? = some h then 1 else 0 := rfl
  have hslots : (fillSlot i w s).viewsOf h =
      (s.setSlot i { inst := (s.slot i).inst + 1, win := some w }).viewsOf h := viewsOf_congr rfl h
  omega

/-- Filling a FREE slot with a window that has no views; a VIEW's source counts it already. -/
theorem LinksSound.fill {s u : State} {i : SlotId} {w : Window} (hs : LinksSound s)
    (hi : (s.slot i).win = none) (hviews : ∀ n, w.views? = some n → n = 0)
    (hw : w.source? = none) (hu : u.slots = (fillSlot i w s).slots) : LinksSound u := by
  have hfill : LinksSound (fillSlot i w s) := by
    refine ⟨fun j v src hv hsrc => ?_, fun h v n hv hn => ?_⟩
    · rw [slot_fillSlot] at hv
      split at hv
      · cases hv
        rw [hw] at hsrc
        cases hsrc
      · obtain ⟨hm, hx⟩ := hs.source j v src hv hsrc
        exact ⟨hm, viewable_fillSlot hi hx⟩
    · rw [viewsOf_fillSlot w hi, hw]
      rcases window?_of_fillSlot hv with ⟨hidx, rfl⟩ | ⟨-, hv⟩
      · have hz : s.viewsOf h = 0 := hs.viewsOf_zero fun ⟨x, hx, _⟩ => by
          rw [window?_eq_some, hidx, hi] at hx
          cases hx.2
        rw [hviews n hn, hz]
        rfl
      · exact hs.count h v n hv hn
  exact hfill.of_agree (.of_slots hu)

/-- VIEW: the slot is filled and the source counts the view, in one event (R152). -/
theorem LinksSound.fillView {s : State} {i : SlotId} {v w : Window} {h : Handle} {p : Paired}
    (hs : LinksSound s) (hi : (s.slot i).win = none) (hv : v.source? = some h) (hm : v.writeMask = 0)
    (hp : s.paired? h = some (w, p)) (hd : w.draining = false) :
    LinksSound (fillSlot i v (s.setPaired h.index w { p with views := p.views + 1 })) := by
  obtain ⟨hw, hb⟩ := paired?_eq_some.1 hp
  have hne : h.index ≠ i := by
    rintro rfl
    rw [window?_eq_some, hi] at hw
    cases hw.2
  let u := s.setPaired h.index w { p with views := p.views + 1 }
  have hu : ∀ x, u.window? x =
      if x = h then some { w with body := .paired { p with views := p.views + 1 } } else s.window? x :=
    window?_setPaired _ hp
  have hfree : (u.slot i).win = none := by
    rw [slot_setPaired, if_neg hne]
    exact hi
  have hviewable : ∀ x, s.viewable x → u.viewable x := fun x ⟨y, hy, hvy, hdy⟩ => by
    by_cases hx : x = h
    · exact ⟨_, by rw [hu, if_pos hx], by simp [Window.views?], by simpa [Window.draining, hb] using hd⟩
    · exact ⟨y, by rw [hu, if_neg hx, hy], hvy, hdy⟩
  refine ⟨fun j x src hx hsrc => ?_, fun x y n hy hn => ?_⟩
  · rw [slot_fillSlot] at hx
    split at hx
    · cases hx
      rw [hv] at hsrc
      cases hsrc
      exact ⟨hm, viewable_fillSlot hfree (hviewable h ⟨w, hw, by simp [Window.views?, hb], hd⟩)⟩
    · obtain ⟨hmx, hvx⟩ := hs.source j x src (view_of_setPaired hx hsrc) hsrc
      exact ⟨hmx, viewable_fillSlot hfree (hviewable src hvx)⟩
  · rw [viewsOf_fillSlot v hfree, hv, viewsOf_setPaired _ hp]
    rcases window?_of_fillSlot hy with ⟨-, rfl⟩ | ⟨-, hy⟩
    · obtain ⟨q, hq, -⟩ := Window.views?_eq_some.1 hn
      rw [Window.source?_eq_some, hq] at hv
      cases hv
    · rw [hu] at hy
      split at hy
      · rename_i e
        cases hy
        have hcount := hs.count h w p.views hw (Window.views?_eq_some.2 ⟨p, hb, rfl⟩)
        rw [e, if_pos rfl, ← hcount]
        simpa [Window.views?] using hn.symm
      · rename_i hx
        rw [if_neg (fun e => hx (Option.some.inj e).symm)]
        exact hs.count x y n hy hn

/-! ### Freeing a window, and the drain queue -/

theorem viewsOf_emptied {s : State} {h : Handle} {w : Window} (hw : s.window? h = some w) (x : Handle) :
    (s.emptied h w).viewsOf x + (if w.source? = some x then 1 else 0) = s.viewsOf x := by
  have e := viewsOf_setSlot h.index { s.slot h.index with win := none } s x
  have hz : (s.slot h.index).viewCount x = if w.source? = some x then 1 else 0 := by
    simp [Slot.viewCount, (window?_eq_some.1 hw).2]
  have hm : Slot.viewCount x { s.slot h.index with win := none } = 0 := rfl
  have hslots : (s.emptied h w).viewsOf x =
      (s.setSlot h.index { s.slot h.index with win := none }).viewsOf x := viewsOf_congr rfl x
  omega

theorem slot_of_emptied {s : State} {h : Handle} {w : Window} {i : SlotId} {v : Window}
    (hv : ((s.emptied h w).slot i).win = some v) : (s.slot i).win = some v := by
  rw [slot_emptied] at hv
  split at hv
  · cases hv
  · exact hv

/-- Freeing a window without views keeps the law; a freed view's source counts one less. -/
theorem LinksSound.freeWindow {s : State} {h : Handle} (hs : LinksSound s) (hn : NoViews h s) :
    LinksSound (freeWindow h s) := by
  cases hw : s.window? h with
  | none => rwa [freeWindow_unmatched hw]
  | some w =>
    rw [freeWindow_matched hw]
    have hmatch : ∀ x, (s.emptied h w).window? x = if x = h then none else s.window? x := window?_emptied hw
    have hviewable : ∀ i v src, (s.slot i).win = some v → v.source? = some src →
        (s.emptied h w).viewable src := fun i v src hv hsrc => by
      obtain ⟨y, hy, hx⟩ := (hs.source i v src hv hsrc).2
      exact ⟨y, by rw [hmatch, if_neg (hs.source_ne hw hn hv hsrc), hy], hx⟩
    have hemptied : ∀ i v src, ((s.emptied h w).slot i).win = some v → v.source? = some src →
        v.writeMask = 0 ∧ (s.emptied h w).viewable src := fun i v src hv hsrc =>
      ⟨(hs.source i v src (slot_of_emptied hv) hsrc).1, hviewable i v src (slot_of_emptied hv) hsrc⟩
    have hcount : ∀ x y n, (s.emptied h w).window? x = some y → y.views? = some n →
        n = (s.emptied h w).viewsOf x + if w.source? = some x then 1 else 0 := fun x y n hy hv => by
      rw [viewsOf_emptied hw]
      rw [hmatch] at hy
      split at hy
      · cases hy
      · exact hs.count x y n hy hv
    cases hsrc : w.source? with
    | none =>
      have e : dropView w (s.emptied h w) = s.emptied h w := by
        rcases dropView_cases w (s.emptied h w) with e | ⟨src, v, p, hb, -, -⟩
        · exact e
        · rw [Window.source?_eq_some.2 hb] at hsrc
          cases hsrc
      rw [e]
      exact ⟨hemptied, fun x y n hy hv => by simpa [hsrc] using hcount x y n hy hv⟩
    | some src =>
      obtain ⟨v, p, hp, hd⟩ := viewable_iff.1
        (hviewable h.index w src (window?_eq_some.1 hw).2 hsrc)
      have e : dropView w (s.emptied h w) =
          (s.emptied h w).setPaired src.index v { p with views := p.views - 1 } := by
        simp [dropView, Window.source?_eq_some.1 hsrc, hp]
      obtain ⟨hv, hb⟩ := paired?_eq_some.1 hp
      let u := (s.emptied h w).setPaired src.index v { p with views := p.views - 1 }
      have hu : ∀ x, u.window? x = if x = src then
          some { v with body := .paired { p with views := p.views - 1 } } else (s.emptied h w).window? x :=
        window?_setPaired _ hp
      rw [e]
      refine ⟨fun i y z hy hz => ?_, fun x y n hy hx => ?_⟩
      · obtain ⟨hm, a, ha, hva, hda⟩ := hemptied i y z (view_of_setPaired hy hz) hz
        refine ⟨hm, ?_⟩
        by_cases hzs : z = src
        · exact ⟨_, by rw [hu, if_pos hzs], by simp [Window.views?], by simp [Window.draining, hd]⟩
        · exact ⟨a, by rw [hu, if_neg hzs, ha], hva, hda⟩
      · rw [viewsOf_setPaired _ hp]
        rw [hu] at hy
        split at hy
        · rename_i hxs
          cases hy
          have hc := hcount src v p.views hv (Window.views?_eq_some.2 ⟨p, hb, rfl⟩)
          rw [hsrc, if_pos rfl] at hc
          have hn' : p.views - 1 = n := by simpa [Window.views?] using hx
          rw [hxs]
          omega
        · rename_i hxs
          have hc := hcount x y n hy hx
          rwa [hsrc, if_neg (fun e => hxs (Option.some.inj e).symm), Nat.add_zero] at hc

/-- A window without views may become DRAINING. -/
theorem LinksSound.enter {s u : State} {h : Handle} {w : Window} {p : Paired} (hs : LinksSound s)
    (hp : s.paired? h = some (w, p)) (hv : p.views = 0)
    (hu : u.slots = (s.setPaired h.index w { p with drain := some 0 }).slots) : LinksSound u := by
  obtain ⟨hw, hb⟩ := paired?_eq_some.1 hp
  have hn : NoViews h s := noViews_iff.2 fun v q hq => by rw [hp] at hq; cases hq; exact hv
  let t := s.setPaired h.index w { p with drain := some 0 }
  have ht : ∀ x, t.window? x =
      if x = h then some { w with body := .paired { p with drain := some 0 } } else s.window? x :=
    window?_setPaired _ hp
  have hdrained : LinksSound t := by
    refine ⟨fun i x src hx hsrc => ?_, fun x y n hy hn' => ?_⟩
    · have hx := view_of_setPaired hx hsrc
      obtain ⟨hm, z, hz, hvz⟩ := hs.source i x src hx hsrc
      exact ⟨hm, z, by rw [ht, if_neg (hs.source_ne hw hn hx hsrc), hz], hvz⟩
    · rw [viewsOf_setPaired _ hp]
      rw [ht] at hy
      split at hy
      · rename_i e
        cases hy
        rw [e]
        refine hs.count h w n hw ?_
        rw [Window.views?_eq_some] at hn' ⊢
        obtain ⟨q, hq, hqn⟩ := hn'
        cases hq
        exact ⟨p, hb, hqn⟩
      · exact hs.count x y n hy hn'
  exact hdrained.of_agree (.of_slots hu)

/-- A DRAINING window has no views: they need an ACTIVE source. -/
theorem LinksSound.noViews_of_drains {s : State} (hs : LinksSound s) {h : Handle} (hd : s.drains h) :
    NoViews h s := fun w n hw hn => by
  rw [hs.count h w n hw hn]
  refine hs.viewsOf_zero ?_
  rintro ⟨v, hv, -, ha⟩
  obtain ⟨x, hx, hdx⟩ := hd
  rw [hx] at hv
  cases hv
  rw [hdx] at ha
  cases ha

/-! ### A restart -/

theorem links_restartWindow (w : Window) : (restartWindow w).links = w.links := by
  unfold restartWindow
  cases hb : w.body <;> simp [Window.links, Window.source?, Window.views?, Window.draining, hb]

theorem LinksSound.restartEvent {s : State} (hs : LinksSound s) : LinksSound (restartEvent s) := by
  have hkept : ∀ i x, ((Machine.restartEvent s).slot i).win = some x → ∃ y, (s.slot i).win = some y ∧
      y.links = x.links := fun i x hx => by
    rw [slot_restartEvent] at hx
    unfold restartSlot at hx
    split at hx
    · rename_i hn
      rw [hn] at hx
      cases hx
    · rename_i y hy
      split at hx
      · cases hx
      · cases hx
        exact ⟨y, hy, (links_restartWindow y).symm⟩
  have hviews : ∀ x, (Machine.restartEvent s).viewsOf x = s.viewsOf x := fun x => by
    simp only [viewsOf_eq_sum, Slot.viewCount]
    refine Finset.sum_congr rfl fun i _ => ?_
    have : ((Machine.restartEvent s).slot i).win.bind Window.source? = (s.slot i).win.bind Window.source? := by
      rw [slot_restartEvent]
      unfold restartSlot
      split
      · rfl
      · rename_i y hy
        rw [hy]
        split
        · rename_i hd
          unfold Window.draining at hd
          unfold Window.source?
          cases hb : y.body <;> simp_all
        · exact Window.source_of_links (links_restartWindow y)
    rw [this]
  refine ⟨fun i x src hx hsrc => ?_, fun x y n hy hn => ?_⟩
  · obtain ⟨y, hy, e⟩ := hkept i x hx
    obtain ⟨hm, z, hz, hvz, hdz⟩ := hs.source i y src hy ((Window.source_of_links e).trans hsrc)
    refine ⟨(Window.writeMask_of_links e hsrc).symm.trans hm, restartWindow z, ?_, ?_, ?_⟩
    · rw [window?_restartEvent, hz]
      simp [hdz]
    · rw [Window.views_of_links (links_restartWindow z), hvz]
    · rw [Window.draining_of_links (links_restartWindow z), hdz]
  · rw [hviews]
    rw [window?_restartEvent] at hy
    obtain ⟨z, hz, hy⟩ := Option.bind_eq_some_iff.1 hy
    split at hy
    · cases hy
    · cases hy
      exact hs.count x z n hz ((Window.views_of_links (links_restartWindow z)).symm.trans hn)

end Sys2Proof.Machine
end

section
/-! The block, its clock and its resets: what the rows of the command word have in common, a microsecond at
the lock entries, what a cold reset finds, leaves and gives, and the statements on them. -/

namespace Sys2Proof.Machine

variable {s t u : State}

/-! ### The rows of the command word -/

/-- The row takes a command word of this code and count, whatever its body. -/
def Takes (code cnt : BitVec 8) (f : State → Result) : Prop := ∃ body, ∀ s, f s = takeCommand code cnt body s

theorem Takes.of_body {code cnt : BitVec 8} (body : State → State) : Takes code cnt (takeCommand code cnt body) :=
  ⟨body, fun _ => rfl⟩

theorem Takes.ite {code c cnt : BitVec 8} {f g : State → Result} (hf : Takes c cnt f) (hg : Takes code cnt g) :
    Takes code cnt (fun s => if code = c then f s else g s) := by
  by_cases h : code = c
  · simpa [h] using hf
  · simpa [h] using hg

/-- Whatever its code, a command word is taken by `takeCommand` (R165). -/
theorem commandWordWrite_takes (w : Word) : Takes (cmdCode w) (cmdCount w) (commandWordWrite w) := by
  unfold commandWordWrite
  iterate 20 refine .ite (.of_body _) ?_
  exact .of_body _

/-- Each row of the command word takes a command of some code. -/
theorem exec_commandWordRow {c : Instr} (h : isCommandWordRow c = true) :
    ∃ code cnt, Takes code cnt (exec c) := by
  cases c
  case unknownCommand w => exact ⟨_, _, commandWordWrite_takes w⟩
  case commandWordIgnored w => exact ⟨_, _, commandWordWrite_takes w⟩
  case retire cnt => exact ⟨codeRetire, cnt, .of_body fun t => arbitrate (retireCommand t)⟩
  case seq cnt => exact ⟨codeSeq, cnt, .of_body fun t => arbitrate (seqCommand cnt t)⟩
  case useq cnt => exact ⟨codeUseq, cnt, .of_body fun t => arbitrate (useqCommand cnt t)⟩
  case start cnt => exact ⟨codeStart, cnt, .of_body fun t => arbitrate (startCommand t)⟩
  case urgent cnt => exact ⟨codeUrgent, cnt, .of_body fun t => arbitrate (urgentCommand t)⟩
  case stop cnt => exact ⟨codeStop, cnt, .of_body fun t => arbitrate (stopCommand t)⟩
  all_goals cases h
  all_goals exact ⟨_, _, .of_body _⟩

theorem exec_commandWordRow_busy {c : Instr} (h : isCommandWordRow c = true) (hr : s.inReset = none)
    (hb : s.cmd.busy = true) : exec c s = .next { s with cmd := { s.cmd with ignored := true } } := by
  obtain ⟨code, cnt, body, he⟩ := exec_commandWordRow h
  rw [he, takeCommand_busy hr hb]

/-- In reset no row but the two of the cold reset has an effect (R176). -/
theorem exec_held {c : Instr} (h : s.inReset ≠ none) (hc : isResetRow c = false) : exec c s = .next s := by
  by_cases hw : isCommandWordRow c = true
  · obtain ⟨code, cnt, body, he⟩ := exec_commandWordRow hw
    rw [he, takeCommand_held h]
  · cases c
    case registerWriteDiscarded a v =>
      obtain ⟨body, he⟩ := commandWordWrite_takes v
      have hcmd : commandWordWrite v s = .next s := by rw [he, takeCommand_held h]
      show managementWrite a v s = .next s
      simp only [managementWrite, hcmd, execEventClear, execEventEnable, execFaultClear, execOperandWrite,
        whenRunning_held h]
      repeat' split
      all_goals rfl
    case coldReset => cases hc
    case coldResetEnd => cases hc
    case operandWrite | eventClear | eventEnableWrite | faultClear | trigREdge | trigUEdge | paceExpiry
        | holdTimerExpiry | requesterAccess | storeAccessDone | mergingReadDone | lineCopyReadDone
        | lineBoundary | continuePublish =>
      simp only [exec, execOperandWrite, execEventClear, execEventEnable, execFaultClear, execTrigR, execTrigU,
        execPace, execHoldExpiry, execRequester, execStoreDone, execMergeDone, execCopyRead, execBoundary,
        execContinue, whenRunning_held h]
    all_goals exact absurd rfl hw

/-! ### A microsecond at the lock entries (log 19, log 38) -/

/-- From `s` to `t` only what a microsecond at the lock entries changes has changed. -/
def LocksOnly (s t : State) : Prop :=
  t = { s with locks := t.locks, continues := t.continues,
               events := { s.events with pending := t.events.pending } }

theorem LocksOnly.trans (h : LocksOnly s t) (k : LocksOnly t u) : LocksOnly s u := by
  unfold LocksOnly at *
  rw [k, h]

theorem breakLock_locksOnly (p : PortId) (s : State) : LocksOnly s (breakLock p s) := by
  cases hl : s.lock p with
  | none => simp [breakLock, hl, LocksOnly]
  | some l => rw [breakLock_eq hl]; rfl

theorem tickLock_locksOnly (p : PortId) (s : State) : LocksOnly s (tickLock p s) := by
  unfold tickLock
  repeat' split
  · rfl
  · rfl
  · exact breakLock_locksOnly p s
  · rfl

/-- A lock entry after a microsecond: its timer counts, and one that would reach 0 leaves the entry empty. -/
def tickedLock : Option Lock → Option Lock
  | none => none
  | some l =>
    match l.timer with
    | none => some l
    | some t => if t.due then none else some { l with timer := some t.tick }

theorem lock_tickLock (p q : PortId) (s : State) :
    (tickLock p s).lock q = if p = q then tickedLock (s.lock q) else s.lock q := by
  by_cases h : p = q
  · subst h
    unfold tickLock
    cases hl : s.lock p with
    | none => simp [tickedLock, hl]
    | some l =>
      cases ht : l.timer with
      | none => simp [tickedLock, ht, hl]
      | some x => by_cases hd : x.due <;> simp [tickedLock, ht, hd, lock_breakLock]
  · rw [if_neg h]
    unfold tickLock
    repeat' split
    · rfl
    · rfl
    · rw [lock_breakLock, if_neg h]
    · rw [lock_setLock, if_neg h]

theorem isPending_breakLock {p : PortId} {l : Lock} (hl : s.lock p = some l) :
    (breakLock p s).isPending .lockBroken = true := by
  rw [breakLock_eq hl]
  simp [State.isPending, EventUnit.raised]

theorem isPending_tickLock (p : PortId) (e : Event) (h : s.isPending e = true) :
    (tickLock p s).isPending e = true := by
  unfold tickLock
  repeat' split
  · exact h
  · exact h
  · next l hl _ _ _ _ =>
    rw [breakLock_eq hl]
    simp only [State.isPending] at h
    simp [State.isPending, EventUnit.raised, h]
  · exact h

theorem isPending_tickLock_due {p : PortId} {l : Lock} {x : HoldTimer} (hl : s.lock p = some l)
    (ht : l.timer = some x) (hd : x.due = true) : (tickLock p s).isPending .lockBroken = true := by
  simp only [tickLock, hl, ht, hd, if_true]
  exact isPending_breakLock hl

theorem tickLock_of_empty {p : PortId} (h : s.lock p = none) : tickLock p s = s := by
  simp [tickLock, h]

theorem tickLocks_locksOnly (s : State) : LocksOnly s (tickLocks s) :=
  (((tickLock_locksOnly 0 s).trans (tickLock_locksOnly 1 _)).trans (tickLock_locksOnly 2 _)).trans
    (tickLock_locksOnly 3 _)

theorem lock_tickLocks (p : PortId) (s : State) : (tickLocks s).lock p = tickedLock (s.lock p) := by
  fin_cases p <;> simp [tickLocks, lock_tickLock]

theorem isPending_tickLocks_due {p : PortId} {l : Lock} {x : HoldTimer} (hl : s.lock p = some l)
    (ht : l.timer = some x) (hd : x.due = true) : (tickLocks s).isPending .lockBroken = true := by
  have entry : ∀ q t, t.lock q = s.lock q → q = p → (tickLock q t).isPending .lockBroken = true := by
    rintro q t hq rfl
    exact isPending_tickLock_due (hq.trans hl) ht hd
  fin_cases p
  · exact isPending_tickLock 3 _ (isPending_tickLock 2 _ (isPending_tickLock 1 _ (entry 0 s rfl rfl)))
  · exact isPending_tickLock 3 _ (isPending_tickLock 2 _ (entry 1 _ (by simp [lock_tickLock]) rfl))
  · exact isPending_tickLock 3 _ (entry 2 _ (by simp [lock_tickLock]) rfl)
  · exact entry 3 _ (by simp [lock_tickLock]) rfl

theorem tickLocks_of_empty (h : ∀ p, s.lock p = none) : tickLocks s = s := by
  simp [tickLocks, tickLock_of_empty, h]

/-! ### A cold reset -/

/-- What a cold reset makes of the store access in flight is in the store alone. -/
theorem maybeWrite_only (x : Nat) (bs : List Byte) (s : State) :
    maybeWrite x bs s = { s with store := (maybeWrite x bs s).store, fresh := (maybeWrite x bs s).fresh } := by
  simp only [maybeWrite]
  split <;> rfl

theorem interruptStore_only (s : State) :
    interruptStore s = { s with store := (interruptStore s).store, fresh := (interruptStore s).fresh } := by
  unfold interruptStore
  split
  · rfl
  · unfold interruptCopy
    split
    · rfl
    · rfl
    · rfl
    · rfl
    · exact maybeWrite_only _ _ s
    · split
      · rfl
      · exact maybeWrite_only _ _ s
  · split
    · rfl
    · unfold interruptAccess
      split
      · rfl
      · rfl
      · rfl
      · split
        · rfl
        · exact maybeWrite_only _ _ s

/-- With no write in flight a cold reset leaves the store as it was. -/
theorem interruptStore_store
    (hp : ∀ p a x, s.grant = some (.port p) → (s.port p).access = some { acc := a, stage := .storing (some x) } →
      classReads a.cls = true)
    (he : s.grant = some .engine → (∀ r n bs, s.pubUnit ≠ .writing r n bs) ∧
      ∀ d bs, s.pubUnit ≠ .orphanWriting d bs) : (interruptStore s).store = s.store := by
  unfold interruptStore
  split
  · rfl
  · next hg =>
    obtain ⟨hw, ho⟩ := he hg
    unfold interruptCopy
    split
    · rfl
    · rfl
    · rfl
    · rfl
    · next d bs hu => exact absurd hu (ho d bs)
    · next r n bs hu => exact absurd hu (hw r n bs)
  · next p hg =>
    split
    · rfl
    · next i hi =>
      unfold interruptAccess
      split
      · rfl
      · rfl
      · rfl
      · next x hx =>
        obtain ⟨a, st⟩ := i
        cases hx
        rw [if_pos (hp p a x hg hi)]

theorem coldCause_eq (now : Option ColdCause) (c : ColdCause) :
    coldCause now c = if now = some .powerOn then .powerOn else c := by
  rcases now with _ | _ | _ <;> rfl

theorem irq_of_held (h : s.inReset ≠ none) : irq s = false := by
  simp [irq, h]

theorem registerRead_held (h : s.inReset ≠ none) (a : Word) : registerRead s a = none := by
  simp [registerRead, Option.isSome_iff_ne_none.2 h]

theorem port_coldResetBegins (c : ColdCause) (s : State) (p : PortId) :
    (coldResetBegins c s).port p = endAccess (s.port p) := by
  simp only [coldResetBegins]
  rw [interruptStore_only]
  simp [State.port]

theorem coldValues_cold (c : ColdCause) (z : BitVec 2) (p : BitVec 4) (m : List Host.Cell) (f : Nat)
    (q : List Instr) : ColdValues (State.cold c z p m f q) where
  slots := slot_cold c z p m f q
  groups := rfl
  accesses _ := by simp [State.cold, State.port, portStart]
  grant := rfl
  pointer := rfl
  free := rfl
  urgency := rfl
  pubUnit := rfl
  continues := rfl
  engineState := rfl
  heldFrom := rfl
  lists := ⟨rfl, rfl, rfl⟩
  run := ⟨rfl, rfl, rfl, rfl, rfl, rfl, rfl⟩
  urgentRun := ⟨rfl, rfl, rfl⟩
  config := rfl
  paceTimer := rfl
  reports := ⟨rfl, rfl, rfl⟩
  locks := lock_cold c z p m f q
  holdLimit := rfl
  guards := guard_cold c z p m f q
  command := rfl
  events := ⟨rfl, rfl, rfl, rfl⟩
  running := rfl

/-! ### RESTART -/

/-- RESTART completes or stays BUSY; the rest of its event is the restart's. -/
theorem restartCommand_only (s : State) :
    restartCommand s = { restartEvent s with cmd := (restartCommand s).cmd } ∧
      (restartCommand s).cmd.operands = s.cmd.operands := by
  simp only [restartCommand]
  split <;> exact ⟨rfl, rfl⟩

end Sys2Proof.Machine

namespace Sys2Proof

open Machine

/-- Settles O1. -/
theorem stepRunsTheFrontCommand : Obligations.StepRunsTheFrontCommand := by
  intro c q s h
  simp [step, h]

/-- Settles O3: the reset state is a cold state. -/
theorem resetLeavesTheColdValues : Obligations.ResetLeavesTheColdValues :=
  ⟨coldValues_cold _ _ _ _ _ _, rfl, rfl, rfl⟩

/-- Settles O2, with the state after the microsecond at the lock entries. -/
theorem emptyQueueCountsAMicrosecond : Obligations.EmptyQueueCountsAMicrosecond := by
  intro s hq hr
  have only : LocksOnly s (tickLocks s) := tickLocks_locksOnly s
  have engine : (tickLocks s).engine = s.engine := by rw [only]
  have running : (tickLocks s).inReset = none := by rw [only]; exact hr
  have stepped : step s = .next (tickPace (tickLocks s)) := by simp [step, hq, tick, hr]
  refine ⟨tickLocks s, fun p => ?_, fun p l r hl ht hle => ?_, only, tickLocks_of_empty, fun hp => ?_,
    fun n hp => ⟨fun hn => ?_, fun hn => ?_⟩⟩
  · rw [lock_tickLocks]
    rcases s.lock p with _ | ⟨w, ph, _ | _ | _⟩ <;> simp [tickedLock, HoldTimer.due, HoldTimer.tick]
  · exact isPending_tickLocks_due hl ht (by simpa [HoldTimer.due] using hle)
  · rw [stepped, tickPace, engine, hp]
  · rw [stepped, tickPace, engine, hp]
    simp [modEngine, engine, show ¬ n ≤ 1 by omega]
  · rw [stepped, tickPace, engine, hp]
    simp [hn, exec, execPace, whenRunning_running running]

/-- Settles O4: what the reset makes of the access in flight touches the store alone, and no other row gets
past the gate of a held part. -/
theorem coldResetHoldsThePart : Obligations.ColdResetHoldsThePart := by
  refine ⟨fun c s => ?_, fun c s h hc => exec_held h hc⟩
  have held : (coldResetBegins c s).inReset ≠ none := by simp [coldResetBegins]
  refine ⟨coldResetBegins c s, rfl, ?_, fun p => ?_, rfl, rfl, irq_of_held held, registerRead_held held,
    fun hp he => interruptStore_store hp he, ?_, ?_, ?_, ?_⟩
  · simp [coldResetBegins, coldCause_eq]
  · simp [port_coldResetBegins, endAccess]
  all_goals
    simp only [coldResetBegins]
    rw [interruptStore_only]

/-- Settles O5: the state at the end is a cold state with the sampled straps. -/
theorem coldResetEndGivesTheColdValues : Obligations.ColdResetEndGivesTheColdValues := by
  intro size ports c s h
  refine ⟨.cold c size ports s.store s.fresh s.pending, ?_, coldValues_cold _ _ _ _ _ _, ?_, fun p => ?_, ?_,
    rfl, irq_eq_false_of_enabled_eq_zero rfl⟩
  · simp [exec, execColdResetEnd, h]
  · simp [State.storeSize, State.cold, Config.storeBytes]
  · simp [State.cold, State.port, portStart]
  · cases c <;> rfl

/-- Settles O6: every block but the command unit is as the restart event leaves it. -/
theorem restartGivesTheRestartValues : Obligations.RestartGivesTheRestartValues := by
  intro cnt s h
  let a : State := { s with cmd := s.cmd.accepted codeRestart cnt }
  obtain ⟨only, operands⟩ := restartCommand_only a
  refine ⟨restartCommand a, takeCommand_accepts h, ?_⟩
  generalize (restartCommand a).cmd = u at only operands
  rw [only]
  refine ⟨fun i => ?_, fun i => ?_, ?_⟩
  · show (restartEvent a).slot i = _
    rw [slot_restartEvent]
    show restartSlot (s.slot i) = _
    unfold restartSlot
    cases hw : (s.slot i).win with
    | none => rfl
    | some w =>
      obtain ⟨base, pages, size, rm, wm, g, body⟩ := w
      cases body <;> simp [restartWindow]
  · show (restartEvent a).guard i = _
    rw [guard_restartEvent]
    show restartGuard a (s.guard i) = _
    unfold restartGuard
    cases s.guard i with
    | none => rfl
    | some g => cases hw : s.window? g.window <;> simp [window?_congr (s := a) (t := s) rfl, hw]
  · refine ⟨rfl, rfl, rfl, lock_restartEvent a, rfl, rfl, rfl, rfl, rfl, rfl, rfl, rfl, rfl, rfl, rfl, rfl, rfl,
      rfl, rfl, rfl, rfl, rfl, rfl, rfl, rfl, rfl, rfl, rfl, rfl, rfl, rfl, rfl, rfl,
      irq_eq_false_of_enabled_eq_zero rfl, rfl, rfl, operands⟩

end Sys2Proof
end

section
/-! The line copy that a RESTART leaves, the words of the register window, and the reset state's invariants. -/

namespace Sys2Proof.Machine

variable {s t : State}

theorem paired?_of_empty {h : Handle} (he : (s.slot h.index).win = none) : s.paired? h = none := by
  cases hp : s.paired? h with
  | none => rfl
  | some x =>
    have hw := (window?_eq_some.1 (paired?_eq_some.1 hp).1).2
    rw [he] at hw
    cases hw

/-! ### A quiet engine -/

/-- What makes a part quiet stands in its engine. -/
theorem State.quiet.of_engine (q : s.quiet) (h : t.engine = s.engine) : t.quiet where
  state := by rw [h, q.state]
  run := by rw [h, q.run]
  regularPending := by rw [h, q.regularPending]
  urgentRun := by rw [h, q.urgentRun]
  urgentRequested := by rw [h, q.urgentRequested]
  drainQueue := by rw [h, q.drainQueue]
  context := by rw [h, q.context]

theorem resultWords_nil : resultWords [] = Vector.replicate 8 0 := by decide

/-! ### The line copy that a RESTART leaves (R83) -/

/-- The end of that line copy with no work waiting. -/
theorem orphanEnd_quiet (q : s.quiet) :
    orphanEnd s =
      { s with
        pubUnit := .ready,
        cmd := { s.cmd with results := Vector.replicate 8 0, status := .done, busy := false } } := by
  have e : orphanEnd s = complete .done [] (unitReady s) := boundaryChoice_quiet (q.of_engine rfl)
  rw [e, ← resultWords_nil]
  rfl

/-- RESTART completes in its event when it leaves no line copy. -/
theorem restartCommand_done (h : restartUnit s = .ready) :
    restartCommand s = complete .done [] (restartEvent s) := by
  have hu : (restartEvent s).pubUnit = .ready := h
  simp [restartCommand, hu]

theorem restartCommand_waits (h : restartUnit s ≠ .ready) : restartCommand s = restartEvent s := by
  have hu : (restartEvent s).pubUnit ≠ .ready := h
  simp [restartCommand, hu]

theorem restartUnit_reading {r : PublishRecord} {n : Nat} {w : Window} {p : Paired}
    (hu : s.pubUnit = .reading r n) (hp : s.paired? r.handle = some (w, p)) :
    restartUnit s = .orphanReading (liveLine w p n) (bankLine w p r.idle n) w.lineSize.bytes := by
  simp [restartUnit, hu, hp]

theorem restartUnit_writing {r : PublishRecord} {n : Nat} {bs : List Byte} {w : Window} {p : Paired}
    (hu : s.pubUnit = .writing r n bs) (hp : s.paired? r.handle = some (w, p)) :
    restartUnit s = .orphanWriting (bankLine w p r.idle n) bs := by
  simp [restartUnit, hu, hp]

theorem lineCopyReadDone_orphan {src dst len : Nat} (e : Bool) (hg : s.grant = some .engine)
    (hu : s.pubUnit = .orphanReading src dst len) (hi : s.inStore src len = true) :
    lineCopyReadDone e s = unitStep (orphanReadDone src dst len e) s := by
  simp [lineCopyReadDone, hg, hu, hi]

theorem lineBoundary_orphan {dst : Nat} {bs : List Byte} (e f : Bool) (hg : s.grant = some .engine)
    (hu : s.pubUnit = .orphanWriting dst bs) (hi : s.inStore dst bs.length = true) :
    lineBoundary e f s = unitStep (orphanWriteDone dst bs e) s := by
  simp [lineBoundary, hg, hu, hi]

/-! ### The words of the register window (R177) -/

theorem at_zero (n : Nat) : at_ 0 n = BitVec.ofNat 32 n := by
  simp [at_]

theorem windowOffset_repeats (a : Word) : windowOffset (a + 256#32) = windowOffset a := by
  have e : (a + 256#32).toNat % 256 = a.toNat % 256 := by
    rw [BitVec.toNat_add]
    simp only [BitVec.toNat_ofNat]
    omega
  simp only [windowOffset, e]

theorem wordAt_unused {o : Nat} (h : o = 0x008 ∨ o = 0x05C ∨ 0x08C ≤ o) : wordAt s o = 0 := by
  unfold wordAt
  iterate 16 rw [if_neg (by omega)]

theorem registerRead_operand (h : s.inReset = none) (k : Fin 8) :
    registerRead s (BitVec.ofNat 32 (0x010 + 4 * k.val)) = some s.cmd.operands[k] := by
  rw [registerRead_running h]
  fin_cases k <;> simp [windowOffset, wordAt]

theorem registerRead_result (h : s.inReset = none) (k : Fin 8) :
    registerRead s (BitVec.ofNat 32 (0x030 + 4 * k.val)) = some s.cmd.results[k] := by
  rw [registerRead_running h]
  fin_cases k <;> simp [windowOffset, wordAt]

theorem registerRead_fault (h : s.inReset = none) (k : Fin 4) :
    registerRead s (BitVec.ofNat 32 (0x060 + 4 * k.val)) = some ((faultWords s.events).getD k 0) := by
  rw [registerRead_running h]
  fin_cases k <;> simp [windowOffset, wordAt]

theorem faultWords_none {e : EventUnit} (h : e.capture = none) : faultWords e = [] := by
  simp [faultWords, h]

theorem faultWords_access {e : EventUnit} {p : PortId} {c : AccessClass} {a : Word} {r : Resp}
    {i : Option SlotId} : e.capture = some (.access p c a r i) → faultWords e =
      [ at_ 0 1 ||| at_ 1 e.more.toNat, at_ 0 p.val ||| at_ 4 (classCode c) ||| at_ 8 r.code, a,
        match i with
        | none => 0
        | some x => at_ 0 x.val ||| at_ 8 1 ] := by
  intro h
  cases i <;> simp only [faultWords, h] <;> rfl

theorem faultWords_lineCopy {e : EventUnit} {a : Word} {wr : Bool} {i : SlotId}
    (h : e.capture = some (.lineCopy a wr i)) :
    faultWords e =
      [ at_ 0 1 ||| at_ 1 e.more.toNat, at_ 0 4 ||| at_ 4 6 ||| at_ 8 (if wr then 2 else 1), a,
        at_ 0 i.val ||| at_ 8 1 ] := by
  simp only [faultWords, h]
  rfl

theorem commandWordWrite_unknown {w : Word} (h : codeNamesCommand (cmdCode w) = false) (s : State) :
    commandWordWrite w s = takeCommand (cmdCode w) (cmdCount w) unknownBody s := by
  simp only [codeNamesCommand, commandCodes, List.contains_cons, List.contains_nil, Bool.or_false,
    Bool.or_eq_false_iff, beq_eq_false_iff_ne] at h
  obtain ⟨h1, h2, h3, h4, h5, h6, h7, h8, h9, h10, h11, h12, h13, h14, h15, h16, h17, h18, h19, h20⟩ := h
  unfold commandWordWrite
  simp only [h1, h2, h3, h4, h5, h6, h7, h8, h9, h10, h11, h12, h13, h14, h15, h16, h17, h18, h19, h20,
    if_false]

theorem isPending_clearEvents (v : Word) (s : State) (e : Event) :
    (clearEvents v s).isPending e = (s.isPending e && !v.getLsbD e.bit) := by
  simp [clearEvents, State.isPending, e.bit_lt]

end Sys2Proof.Machine

namespace Sys2Proof

open Machine

/-- Settles O7: the unit that RESTART leaves decides its completion, and the end of the copy it left completes
it. -/
theorem restartEndsWithTheLineCopy : Obligations.RestartEndsWithTheLineCopy := by
  refine ⟨fun cnt s h hu => ?_, fun cnt s r n w p h hu hp => ?_, fun cnt s r n bs w p h hu hp => ?_,
    fun s src dst len hr hg hu hi => ⟨?_, fun q => ?_⟩, fun s dst bs early hr hg hu hi q => ⟨?_, ?_⟩⟩
  · have ready : restartUnit { s with cmd := s.cmd.accepted codeRestart cnt } = .ready := by
      rcases hu with hu | ⟨r, hu⟩ <;> simp [restartUnit, hu]
    refine ⟨_, takeCommand_accepts h, ?_⟩
    rw [restartCommand_done ready]
    exact ⟨ready, rfl, rfl, rfl, resultWords_nil⟩
  · have left := restartUnit_reading (s := { s with cmd := s.cmd.accepted codeRestart cnt }) hu hp
    refine ⟨_, takeCommand_accepts h, ?_⟩
    rw [restartCommand_waits (by rw [left]; exact PubUnit.noConfusion)]
    exact ⟨rfl, rfl, left⟩
  · have left := restartUnit_writing (s := { s with cmd := s.cmd.accepted codeRestart cnt }) hu hp
    refine ⟨_, takeCommand_accepts h, ?_⟩
    rw [restartCommand_waits (by rw [left]; exact PubUnit.noConfusion)]
    exact ⟨rfl, rfl, left⟩
  · show whenRunning (lineCopyReadDone false) s = _
    rw [whenRunning_running hr, lineCopyReadDone_orphan false hg hu hi]
    rfl
  · show whenRunning (lineCopyReadDone true) s = _
    have ends : orphanReadDone src dst len true (giveUp s) = orphanEnd (giveUp s) := rfl
    rw [whenRunning_running hr, lineCopyReadDone_orphan true hg hu hi, unitStep, ends,
      orphanEnd_quiet (s := giveUp s) (q.of_engine rfl)]
    rfl
  · show whenRunning (lineBoundary false early) s = _
    have ends : orphanWriteDone dst bs false (giveUp s) = orphanEnd (storeWrite dst bs (giveUp s)) := rfl
    rw [whenRunning_running hr, lineBoundary_orphan false early hg hu hi, unitStep, ends,
      orphanEnd_quiet (s := storeWrite dst bs (giveUp s)) (q.of_engine rfl)]
    rfl
  · show whenRunning (lineBoundary true early) s = _
    have ends : orphanWriteDone dst bs true (giveUp s) =
      orphanEnd (storeWriteFailed dst bs.length (giveUp s)) := rfl
    rw [whenRunning_running hr, lineBoundary_orphan true early hg hu hi, unitStep, ends,
      orphanEnd_quiet (s := storeWriteFailed dst bs.length (giveUp s)) (q.of_engine rfl)]
    rfl

/-- Settles O8: the gate of the command word, the discarded writes, and the words that the window reads as. -/
theorem writesThatNameNoWorkDoNone : Obligations.WritesThatNameNoWorkDoNone := by
  refine ⟨fun c s h hr hb => exec_commandWordRow_busy h hr hb, fun w s h hc => ?_,
    fun a v s h => exec_registerWriteDiscarded h, fun a s h ha => ?_, fun a s => ?_, fun s h => ?_,
    by decide, by decide, by decide, by decide⟩
  · show commandWordWrite w s = _
    rw [commandWordWrite_unknown hc, takeCommand_accepts h]
    rfl
  · rw [registerRead_running h, wordAt_unused ha]
  · simp only [registerRead, windowOffset_repeats]
  · refine ⟨registerRead_running h _, ?_, registerRead_running h _, registerRead_result h,
      registerRead_running h _, fun hc k => ?_, fun p c a r i hc => ?_, fun a wr i hc => ?_,
      fun x => ⟨?_, ?_⟩, ?_, ?_, ?_⟩
    · rw [registerRead_running h]
      show some (at_ 0 s.events.cause.code) = _
      cases s.events.cause <;> rfl
    · rw [registerRead_fault h, faultWords_none hc]
      rfl
    · have words := fun k => registerRead_fault h k
      rw [faultWords_access hc] at words
      exact ⟨words 0, words 1, words 2, words 3⟩
    · have words := fun k => registerRead_fault h k
      rw [faultWords_lineCopy hc] at words
      exact ⟨words 0, words 1, words 2, words 3⟩
    · rintro rfl
      exact ⟨registerRead_running h _, registerRead_running h _⟩
    · rintro rfl
      exact ⟨registerRead_running h _, registerRead_running h _⟩
    · rw [registerRead_running h]
      show some (retireWord s.events.retireReport) = _
      unfold retireWord
      rcases s.events.retireReport.outcome with _ | _ | _ <;> rfl
    · rw [registerRead_running h, ← at_zero s.free]
      rfl
    · rw [registerRead_running h]
      show some (at_ 0 s.engine.state.code) = _
      cases s.engine.state <;> rfl

/-- Settles O9: the write's equation and the word read back; the cleared events by their bits. -/
theorem operandAndEventWritesAct : Obligations.OperandAndEventWritesAct := by
  refine ⟨⟨fun n v s h => ?_, fun _ _ _ => rfl⟩, fun v s h => ?_⟩
  · refine ⟨writeOperand n v s, whenRunning_running (f := fun t => .next (writeOperand n v t)) h, rfl, ?_,
      fun m hm => ?_⟩
    · rw [registerRead_operand (s := writeOperand n v s) h]
      simp [writeOperand]
    · have hne : n.val ≠ m.val := fun e => hm (Fin.ext e.symm)
      simp [opr, writeOperand, hne]
  · exact ⟨clearEvents v s, whenRunning_running (f := fun t => .next (clearEvents v t)) h, rfl,
      isPending_clearEvents v s⟩

/-- Settles O60: a cold state has no window, no access and no publish. -/
theorem resetSatisfiesTheInvariants : Obligations.ResetSatisfiesTheInvariants := by
  have free : ∀ i, (State.reset.slot i).win = none := fun i => by rw [(resetLeavesTheColdValues.1).slots i]
  have unmatched : ∀ h, State.reset.paired? h = none := fun h => paired?_of_empty (free h.index)
  refine ⟨rfl, marksConserved_of_empty rfl fun i => by simp [Slot.marks, free],
    ⟨fun i w h => ?_, fun i j w v _ h => ?_⟩, ⟨fun i w h => ?_, fun i j w v _ h => ?_⟩,
    ⟨fun i g h => ?_, fun i j g k _ h => ?_⟩, drainsAndLocksSound_of_empty rfl free (lock_cold _ _ _ _ _ _),
    idleBankSound_of_ready rfl, grantSound_of_idle rfl (resetLeavesTheColdValues.1).accesses rfl,
    ⟨fun i w src h => ?_, fun h w p hp => ?_, fun r hr => by cases hr⟩,
    fun _ => ⟨fun h hw => ?_, fun _ => ⟨rfl, rfl⟩, fun _ => rfl, fun r hr => by cases hr⟩⟩
  · rw [free] at h; cases h
  · rw [free] at h; cases h
  · rw [free] at h; cases h
  · rw [free] at h; cases h
  · rw [(resetLeavesTheColdValues.1).guards] at h; cases h
  · rw [(resetLeavesTheColdValues.1).guards] at h; cases h
  · rw [free] at h; cases h
  · rw [unmatched] at hp; cases hp
  · obtain ⟨w, p, hp, -⟩ := hw
    rw [unmatched] at hp; cases hp

end Sys2Proof
end

section
/-! The operand fields of the commands, the state in which a command is carried out, and GROUP. -/

namespace Sys2Proof.Machine

variable {s t : State} {code cnt : BitVec 8}

/-! ### The state in which an accepted command is carried out -/

/-- The state with a command of this code accepted (R165). -/
def State.taking (s : State) (code cnt : BitVec 8) : State := { s with cmd := s.cmd.accepted code cnt }

theorem takeCommand_taking {f : State → State} (h : s.accepts) :
    takeCommand code cnt f s = .next (f (s.taking code cnt)) := takeCommand_accepts h

theorem refuseCommand_taking (st : Status) :
    refuseCommand st (s.taking code cnt) = s.completed code cnt st [] := rfl

theorem complete_taking (st : Status) (res : List Word) :
    complete st res (s.taking code cnt) = s.completed code cnt st res := rfl

@[simp] theorem opr_taking (n : Fin 8) : opr (s.taking code cnt) n = opr s n := rfl
@[simp] theorem slot_taking (i : SlotId) : (s.taking code cnt).slot i = s.slot i := rfl
@[simp] theorem window?_taking (h : Handle) : (s.taking code cnt).window? h = s.window? h := rfl
@[simp] theorem paired?_taking (h : Handle) : (s.taking code cnt).paired? h = s.paired? h := rfl
@[simp] theorem oprWindow_taking : oprWindow (s.taking code cnt) = oprWindow s := rfl
@[simp] theorem lock_taking (p : PortId) : (s.taking code cnt).lock p = s.lock p := rfl
@[simp] theorem lockHolder_taking (h : Handle) : (s.taking code cnt).lockHolder h = s.lockHolder h := rfl
@[simp] theorem isLocked_taking (h : Handle) : (s.taking code cnt).isLocked h = s.isLocked h := rfl
@[simp] theorem guard_taking (i : GuardId) : (s.taking code cnt).guard i = s.guard i := rfl
@[simp] theorem port_taking (p : PortId) : (s.taking code cnt).port p = s.port p := rfl
@[simp] theorem groups_taking : (s.taking code cnt).groups = s.groups := rfl
@[simp] theorem guards_taking : (s.taking code cnt).guards = s.guards := rfl
@[simp] theorem engine_taking : (s.taking code cnt).engine = s.engine := rfl
@[simp] theorem pubUnit_taking : (s.taking code cnt).pubUnit = s.pubUnit := rfl
@[simp] theorem holdLimit_taking : (s.taking code cnt).holdLimit = s.holdLimit := rfl
@[simp] theorem freeSlot?_taking : (s.taking code cnt).freeSlot? = s.freeSlot? := rfl
@[simp] theorem freeGuard?_taking : (s.taking code cnt).freeGuard? = s.freeGuard? := rfl
@[simp] theorem windowAt_taking (a : Nat) : (s.taking code cnt).windowAt a = s.windowAt a := rfl
@[simp] theorem openOperands_taking : openOperands (s.taking code cnt) = openOperands s := rfl
@[simp] theorem viewOperands_taking : viewOperands (s.taking code cnt) = viewOperands s := rfl
@[simp] theorem modifyOperands_taking (w : Window) :
    modifyOperands (s.taking code cnt) w = modifyOperands s w := rfl
@[simp] theorem guardOperands_taking (h : Handle) (w : Window) :
    guardOperands (s.taking code cnt) h w = guardOperands s h w := rfl
@[simp] theorem engsetOperands_taking : engsetOperands (s.taking code cnt) = engsetOperands s := rfl
@[simp] theorem oprEntries_taking (n : Nat) : oprEntries (s.taking code cnt) n = oprEntries s n := rfl
@[simp] theorem rangeOverlaps_taking (w : Window) : rangeOverlaps w (s.taking code cnt) = rangeOverlaps w s := rfl
@[simp] theorem storeConflict_taking (w : Window) : storeConflict w (s.taking code cnt) = storeConflict w s := rfl
@[simp] theorem holderLosesRight_taking (h : Handle) (rm wm : BitVec 4) :
    holderLosesRight h rm wm (s.taking code cnt) = holderLosesRight h rm wm s := rfl

/-! ### Fields (R178, 11.4) -/

theorem extractLsb'_field (w : Word) (lo a b len : Nat) (h : a + len ≤ b) :
    (field w lo b).extractLsb' a len = field w (lo + a) len := by
  unfold field
  ext i hi
  simp [show a + i < b by omega, Nat.add_assoc]

/-- A mask field that names another port than P0 to P3 names no mask. -/
theorem maskOf_field (w : Word) (lo : Nat) :
    maskOf (field w lo 8) = if field w (lo + 4) 4 = 0 then some (field w lo 4) else none := by
  simp only [maskOf, extractLsb'_field _ _ _ _ _ (show 4 + 4 ≤ 8 by omega),
    extractLsb'_field _ _ _ _ _ (show 0 + 4 ≤ 8 by omega), Nat.add_zero]

theorem maskOf_field_eq_some {w : Word} {lo : Nat} {m : BitVec 4} :
    maskOf (field w lo 8) = some m ↔ field w (lo + 4) 4 = 0 ∧ m = field w lo 4 := by
  rw [maskOf_field]
  by_cases h : field w (lo + 4) 4 = 0 <;> simp [h, eq_comm]

theorem groupOf_eq_some {n : BitVec 4} {g : Fin 4} : groupOf n = some g ↔ g.val = n.toNat := by
  unfold groupOf
  split
  · simp [Fin.ext_iff, eq_comm]
  · have := g.isLt
    simp only [reduceCtorEq, false_iff]
    omega

theorem portOf_eq_none {n : BitVec 8} (h : 3 < n.toNat) : portOf n = none := by
  simp [portOf, show ¬ n.toNat < 4 by omega]

theorem guardOf_eq_none {n : BitVec 8} (h : 15 < n.toNat) : guardOf n = none := by
  simp [guardOf, show ¬ n.toNat < 16 by omega]

theorem pageAligned_iff {w : Word} : pageAligned w = true ↔ w.toNat % 4096 = 0 := by
  simp [pageAligned, ← BitVec.toNat_inj]

theorem rangeAllowed_iff {b : Word} {n : Nat} :
    rangeAllowed b n = true ↔ b.toNat % 4096 = 0 ∧ 1 ≤ n ∧ n ≤ 256 ∧ b.toNat + n * 4096 - 1 ≤ 0xFFFFFFFF := by
  unfold rangeAllowed Config.pageBytes Config.addressLimit
  rw [Bool.and_eq_true, Bool.and_eq_true, Bool.and_eq_true, pageAligned_iff, decide_eq_true_iff,
    decide_eq_true_iff, decide_eq_true_iff]
  omega

theorem lineSizeOf_eq_some {n : Nat} {z : LineSize} : lineSizeOf n = some z ↔ z.bytes = n := by
  unfold lineSizeOf
  constructor
  · intro h
    repeat' split at h
    all_goals cases h
    all_goals simp [LineSize.bytes, *]
  · rintro rfl
    cases z <;> rfl

/-! ### The lowest index of a table -/

theorem find?_finRange_eq_some {n : Nat} {p : Fin n → Bool} {i : Fin n} (h : p i = true)
    (hj : ∀ j, j < i → p j = false) : (List.finRange n).find? p = some i := by
  rw [List.find?_eq_some_iff_getElem]
  exact ⟨h, i.val, by simp, by simp, fun j hlt => by simp [hj ⟨j, by omega⟩ hlt]⟩

theorem find?_finRange_eq_none {n : Nat} {p : Fin n → Bool} (h : ∀ i, p i = false) :
    (List.finRange n).find? p = none := by
  simp [List.find?_eq_none, h]

theorem freeSlot?_of_lowestFree {i : SlotId} (h : s.lowestFree i) : s.freeSlot? = some i := by
  obtain ⟨free, filled⟩ := h
  refine find?_finRange_eq_some (by simp [free]) fun j hj => ?_
  simpa [Option.isSome_iff_ne_none] using filled j hj

theorem freeSlot?_of_filled (h : ∀ i, (s.slot i).win ≠ none) : s.freeSlot? = none :=
  find?_finRange_eq_none fun i => by simpa [Option.isSome_iff_ne_none] using h i

theorem freeGuard?_of_lowest {i : GuardId} (h : s.guard i = none) (hj : ∀ j, j < i → s.guard j ≠ none) :
    s.freeGuard? = some i :=
  find?_finRange_eq_some (by simp [h]) fun j hlt => by simpa [Option.isSome_iff_ne_none] using hj j hlt

theorem freeGuard?_of_set (h : ∀ i, s.guard i ≠ none) : s.freeGuard? = none :=
  find?_finRange_eq_none fun i => by simpa [Option.isSome_iff_ne_none] using h i

/-! ### GROUP -/

theorem flaggedGroup_eq_none {n : BitVec 8} (h : n.toNat = 0 ∨ 3 < n.toNat) : flaggedGroup n = none := by
  unfold flaggedGroup
  rw [if_neg (by bv_omega), if_neg (by bv_omega), if_neg (by bv_omega)]

theorem flaggedGroup_ne_zero {n : BitVec 8} {g : Fin 4} (h : flaggedGroup n = some g) : g ≠ 0 := by
  unfold flaggedGroup at h
  repeat' split at h
  all_goals cases h
  all_goals decide

theorem GroupFlags.isOpen_set_same (f : GroupFlags) {g : Fin 4} (v : Bool) (h : g ≠ 0) :
    (f.set g v).isOpen g = v := by
  fin_cases g
  · exact absurd rfl h
  all_goals rfl

theorem GroupFlags.isOpen_set_other (f : GroupFlags) {g m : Fin 4} (v : Bool) (h : m ≠ g) :
    (f.set g v).isOpen m = f.isOpen m := by
  fin_cases g <;> fin_cases m <;> simp_all [GroupFlags.set, GroupFlags.isOpen]

theorem groupCommand_refused {st : State}
    (h : flaggedGroup (field (opr st 0) 0 8) = none ∨ settingOf (field (opr st 1) 0 2) = none) :
    groupCommand st = refuseCommand .badOperand st := by
  unfold groupCommand
  rcases h with h | h
  · rw [h]
  · rw [h]
    cases flaggedGroup (field (opr st 0) 0 8) <;> rfl

end Sys2Proof.Machine

namespace Sys2Proof

open Machine

/-- Settles O12: the two operand fields decide. -/
theorem groupSetsItsFlag : Obligations.GroupSetsItsFlag := by
  intro cnt s ha
  have row : exec (.group cnt) s = .next (groupCommand (s.taking codeGroup cnt)) := takeCommand_taking ha
  rw [row]
  refine ⟨fun n v hn hv => ⟨?_, flaggedGroup_ne_zero hn, ?_, fun m hm => ?_⟩, fun h => ?_⟩
  · simp only [groupCommand, opr_taking, hn, hv]
    rfl
  · exact GroupFlags.isOpen_set_same _ _ (flaggedGroup_ne_zero hn)
  · exact GroupFlags.isOpen_set_other _ _ hm
  · rw [groupCommand_refused, refuseCommand_taking]
    simp only [opr_taking]
    rcases h with h | h | h | h
    · exact .inl (flaggedGroup_eq_none (.inl h))
    · exact .inl (flaggedGroup_eq_none (.inr h))
    · right; rw [h]; rfl
    · right; rw [h]; rfl

end Sys2Proof
end

section
/-! OPEN, VIEW and MODIFY: what their operands describe, their checks in order, and what one that passes
writes. -/

namespace Sys2Proof.Machine

variable {s t : State} {code cnt : BitVec 8}

/-! ### OPEN's operands (R7, R149) -/

/-- The body that OPEN gives a kind: the code of the kind, the live offset and for PAIRED the bank offsets. -/
theorem openBody_isSome {c : BitVec 4} {l a b : Word} :
    ((openKind c).bind fun k => openBody k l a b).isSome = true ↔
      (c = 1 ∨ c = 2 ∨ c = 3) ∧ l.toNat % 4096 = 0 ∧ (c = 3 → a.toNat % 4096 = 0 ∧ b.toNat % 4096 = 0) := by
  rw [← pageAligned_iff, ← pageAligned_iff, ← pageAligned_iff]
  unfold openKind
  by_cases h1 : c = 1
  · subst h1; cases hl : pageAligned l <;> simp [openBody, hl]
  · by_cases h2 : c = 2
    · subst h2; cases hl : pageAligned l <;> simp [openBody, hl]
    · by_cases h3 : c = 3
      · subst h3
        cases hl : pageAligned l <;> cases ha : pageAligned a <;> cases hb : pageAligned b <;>
          simp [openBody, hl, ha, hb]
      · rw [if_neg h1, if_neg h2, if_neg h3]
        exact ⟨nofun, fun ⟨hk, _⟩ => absurd hk (by simp only [h1, h2, h3, or_self, not_false_eq_true])⟩

theorem openBody_of_kind {c : BitVec 4} {k : Kind} {l a b : Word} {x : Body} (hk : openKind c = some k)
    (hx : openBody k l a b = some x) :
    (c = 1 → x = .plain l) ∧ (c = 2 → x = .tracked l (.lines [])) ∧
    (c = 3 → x = .paired
      { live := l, bankA := a, bankB := b, current := .a, gen := 0, dirty := .whole, work := none,
        carry := .whole, views := 0, drain := none }) := by
  unfold openBody at hx
  split at hx
  · cases hx
  · refine ⟨?_, ?_, ?_⟩
    · rintro rfl
      cases hk
      exact (Option.some.inj hx).symm
    · rintro rfl
      cases hk
      exact (Option.some.inj hx).symm
    · rintro rfl
      cases hk
      simp only at hx
      split at hx
      · exact (Option.some.inj hx).symm
      · cases hx

/-- OPEN's operands, one by one. -/
theorem openOperands_eq_some {w : Window} :
    openOperands s = some w ↔
      ∃ k z rm wm g b, openKind (field (opr s 1) 0 4) = some k ∧
        lineSizeOf (field (opr s 3) 16 9).toNat = some z ∧ maskOf (field (opr s 1) 8 8) = some rm ∧
        maskOf (field (opr s 1) 16 8) = some wm ∧ groupOf (field (opr s 1) 4 4) = some g ∧
        openBody k (opr s 4) (opr s 5) (opr s 6) = some b ∧
        rangeAllowed (opr s 2) (field (opr s 3) 0 9).toNat = true ∧
        w = { base := opr s 2, pages := (field (opr s 3) 0 9).toNat, lineSize := z, readMask := rm,
              writeMask := wm, group := g, body := b } := by
  simp only [openOperands, Option.bind_eq_bind, Option.bind_eq_some_iff]
  constructor
  · rintro ⟨k, hk, z, hz, rm, hrm, wm, hwm, g, hg, b, hb, h⟩
    split at h
    · next hr => exact ⟨k, z, rm, wm, g, b, hk, hz, hrm, hwm, hg, hb, hr, (Option.some.inj h).symm⟩
    · cases h
  · rintro ⟨k, z, rm, wm, g, b, hk, hz, hrm, hwm, hg, hb, hr, rfl⟩
    exact ⟨k, hk, z, hz, rm, hrm, wm, hwm, g, hg, b, hb, if_pos hr⟩

theorem openOperands_isSome :
    (openOperands s).isSome = true ↔
      ((openKind (field (opr s 1) 0 4)).bind fun k => openBody k (opr s 4) (opr s 5) (opr s 6)).isSome = true ∧
      (lineSizeOf (field (opr s 3) 16 9).toNat).isSome = true ∧
      (maskOf (field (opr s 1) 8 8)).isSome = true ∧ (maskOf (field (opr s 1) 16 8)).isSome = true ∧
      (groupOf (field (opr s 1) 4 4)).isSome = true ∧
      rangeAllowed (opr s 2) (field (opr s 3) 0 9).toNat = true := by
  simp only [Option.isSome_iff_exists, Option.bind_eq_some_iff, openOperands_eq_some]
  constructor
  · rintro ⟨w, k, z, rm, wm, g, b, hk, hz, hrm, hwm, hg, hb, hr, -⟩
    exact ⟨⟨b, k, hk, hb⟩, ⟨z, hz⟩, ⟨rm, hrm⟩, ⟨wm, hwm⟩, ⟨g, hg⟩, hr⟩
  · rintro ⟨⟨b, k, hk, hb⟩, ⟨z, hz⟩, ⟨rm, hrm⟩, ⟨wm, hwm⟩, ⟨g, hg⟩, hr⟩
    exact ⟨_, k, z, rm, wm, g, b, hk, hz, hrm, hwm, hg, hb, hr, rfl⟩

theorem lineSizeOf_isSome {n : Nat} : (lineSizeOf n).isSome = true ↔ n = 64 ∨ n = 128 ∨ n = 256 := by
  simp only [Option.isSome_iff_exists, lineSizeOf_eq_some]
  constructor
  · rintro ⟨z, rfl⟩
    cases z <;> simp [LineSize.bytes]
  · rintro (rfl | rfl | rfl)
    · exact ⟨.b64, rfl⟩
    · exact ⟨.b128, rfl⟩
    · exact ⟨.b256, rfl⟩

theorem maskOf_field_isSome {w : Word} {lo : Nat} :
    (maskOf (field w lo 8)).isSome = true ↔ field w (lo + 4) 4 = 0 := by
  simp [Option.isSome_iff_exists, maskOf_field_eq_some]

theorem groupOf_isSome {n : BitVec 4} : (groupOf n).isSome = true ↔ n.toNat ≤ 3 := by
  simp only [Option.isSome_iff_exists, groupOf_eq_some]
  constructor
  · rintro ⟨g, hg⟩
    omega
  · intro h
    exact ⟨⟨n.toNat, by omega⟩, rfl⟩

/-! ### The tests of a new window (R15, R16) -/

theorem rangeOverlaps_iff {w : Window} :
    rangeOverlaps w s = true ↔ ∃ i v, (s.slot i).win = some v ∧ rangesMeet w v = true := by
  unfold rangeOverlaps
  rw [List.any_eq_true]
  simp only [mem_windows]
  constructor
  · rintro ⟨v, ⟨i, hv⟩, h⟩
    exact ⟨i, v, hv, h⟩
  · rintro ⟨i, v, hv, h⟩
    exact ⟨v, ⟨i, hv⟩, h⟩

theorem storeConflict_iff {w : Window} :
    storeConflict w s = true ↔
      (∃ a ∈ w.regions, s.inStore a w.size = false) ∨ regionsDisjoint w.size w.regions = false ∨
        ∃ i v, (s.slot i).win = some v ∧ regionsMeet w v = true := by
  unfold storeConflict
  simp only [Bool.or_eq_true, List.any_eq_true, mem_windows, Bool.not_eq_true', or_assoc]
  refine or_congr_right (or_congr_right ⟨?_, ?_⟩)
  · rintro ⟨v, ⟨i, hv⟩, h⟩
    exact ⟨i, v, hv, h⟩
  · rintro ⟨i, v, hv, h⟩
    exact ⟨v, ⟨i, hv⟩, h⟩

/-! ### Filling a slot -/

theorem fillAndComplete_eq (i : SlotId) (w : Window) (s : State) :
    fillAndComplete i w s =
      complete .done [at_ 0 (i.val + 256 * ((s.slot i).inst + 1).toNat)] (fillSlot i w s) := by
  simp [fillAndComplete, State.handleAt, handleField, fillSlot]

/-! ### OPEN, past each of its checks (R150) -/

theorem openCommand_noSpace (hf : s.freeSlot? = none) : openCommand s = refuseCommand .noSpace s := by
  simp [openCommand, hf]

theorem openCommand_badOperand {i : SlotId} (hf : s.freeSlot? = some i) (ho : openOperands s = none) :
    openCommand s = refuseCommand .badOperand s := by
  simp [openCommand, hf, ho]

theorem openCommand_described {i : SlotId} {w : Window} (hf : s.freeSlot? = some i)
    (ho : openOperands s = some w) :
    openCommand s =
      if s.groups.isOpen w.group = false then refuseCommand .protected_ s
      else if rangeOverlaps w s = true then refuseCommand .overlap s
      else if storeConflict w s = true then refuseCommand .storeOverlap s
      else fillAndComplete i w s := by
  simp [openCommand, hf, ho]

/-! ### VIEW (R151, R152) -/

theorem viewOperands_eq_some {rm : BitVec 4} {g : Fin 4} :
    viewOperands s = some (rm, g) ↔
      maskOf (field (opr s 1) 8 8) = some rm ∧ groupOf (field (opr s 1) 4 4) = some g ∧
        pageAligned (opr s 2) = true ∧ field (opr s 1) 16 8 = 0 := by
  simp only [viewOperands, Option.bind_eq_bind, Option.bind_eq_some_iff]
  constructor
  · rintro ⟨rm', hrm, g', hg, h⟩
    split at h
    · next hc =>
      cases h
      simp only [Bool.and_eq_true, beq_iff_eq] at hc
      exact ⟨hrm, hg, hc⟩
    · cases h
  · rintro ⟨hrm, hg, hc⟩
    exact ⟨rm, hrm, g, hg, by simp [hc]⟩

theorem viewCommand_noSpace (hf : s.freeSlot? = none) : viewCommand s = refuseCommand .noSpace s := by
  simp [viewCommand, hf]

theorem viewCommand_badOperand {i : SlotId} (hf : s.freeSlot? = some i) (ho : viewOperands s = none) :
    viewCommand s = refuseCommand .badOperand s := by
  simp [viewCommand, hf, ho]

theorem viewCommand_notFound {i : SlotId} {rm : BitVec 4} {g : Fin 4} (hf : s.freeSlot? = some i)
    (ho : viewOperands s = some (rm, g)) (hw : oprWindow s = none) :
    viewCommand s = refuseCommand .notFound s := by
  simp [viewCommand, hf, ho, hw]

theorem viewCommand_retiring {i : SlotId} {rm : BitVec 4} {g : Fin 4} {h : Handle} {w : Window}
    (hf : s.freeSlot? = some i) (ho : viewOperands s = some (rm, g)) (hw : oprWindow s = some (h, w))
    (hd : w.draining = true) : viewCommand s = refuseCommand .retiring s := by
  simp [viewCommand, hf, ho, hw, hd]

theorem draining_of_kind {w : Window} (hk : w.kind ≠ .paired) : w.draining = false := by
  unfold Window.kind at hk
  unfold Window.draining
  cases hb : w.body <;> simp_all

theorem viewCommand_wrongKind {i : SlotId} {rm : BitVec 4} {g : Fin 4} {h : Handle} {w : Window}
    (hf : s.freeSlot? = some i) (ho : viewOperands s = some (rm, g)) (hw : oprWindow s = some (h, w))
    (hk : w.kind ≠ .paired) : viewCommand s = refuseCommand .wrongKind s := by
  have hd := draining_of_kind hk
  unfold Window.kind at hk
  cases hb : w.body <;> simp_all [viewCommand]

theorem viewCommand_source {i : SlotId} {rm : BitVec 4} {g : Fin 4} {h : Handle} {w : Window} {p : Paired}
    (hf : s.freeSlot? = some i) (ho : viewOperands s = some (rm, g)) (hw : oprWindow s = some (h, w))
    (hb : w.body = .paired p) (hd : w.draining = false) :
    viewCommand s =
      if rangeAllowed (opr s 2) w.pages = false then refuseCommand .badOperand s
      else if s.groups.isOpen g = false then refuseCommand .protected_ s
      else if rangeOverlaps (viewWindow (opr s 2) rm g h w) s = true then refuseCommand .overlap s
      else fillAndComplete i (viewWindow (opr s 2) rm g h w)
        (s.setPaired h.index w { p with views := p.views + 1 }) := by
  simp [viewCommand, hf, ho, hw, hb, hd, viewWindow]

/-! ### MODIFY (R153, R154) -/

theorem modifyOperands_eq_some {w : Window} {rm wm : BitVec 4} {g : Fin 4} :
    modifyOperands s w = some (rm, wm, g) ↔
      maskOf (field (opr s 1) 8 8) = some rm ∧ maskOf (field (opr s 1) 16 8) = some wm ∧
        groupOf (field (opr s 1) 4 4) = some g ∧ (w.kind = .view → wm = 0) := by
  simp only [modifyOperands, Option.bind_eq_bind, Option.bind_eq_some_iff]
  constructor
  · rintro ⟨rm', hrm, wm', hwm, g', hg, h⟩
    split at h
    · cases h
    · next hc =>
      cases h
      simp only [Bool.and_eq_true, beq_iff_eq, bne_iff_ne, not_and, Decidable.not_not] at hc
      exact ⟨hrm, hwm, hg, hc⟩
  · rintro ⟨hrm, hwm, hg, hc⟩
    refine ⟨rm, hrm, wm, hwm, g, hg, if_neg ?_⟩
    simpa using hc

theorem modifyCommand_notFound (hw : oprWindow s = none) : modifyCommand s = refuseCommand .notFound s := by
  simp [modifyCommand, hw]

theorem modifyCommand_retiring {h : Handle} {w : Window} (hw : oprWindow s = some (h, w))
    (hd : w.draining = true) : modifyCommand s = refuseCommand .retiring s := by
  simp [modifyCommand, hw, hd]

theorem modifyCommand_badOperand {h : Handle} {w : Window} (hw : oprWindow s = some (h, w))
    (hd : w.draining = false) (ho : modifyOperands s w = none) :
    modifyCommand s = refuseCommand .badOperand s := by
  simp [modifyCommand, hw, hd, ho]

theorem modifyCommand_described {h : Handle} {w : Window} {rm wm : BitVec 4} {g : Fin 4}
    (hw : oprWindow s = some (h, w)) (hd : w.draining = false) (ho : modifyOperands s w = some (rm, wm, g)) :
    modifyCommand s =
      if s.groups.isOpen w.group = false ∨ s.groups.isOpen g = false then refuseCommand .protected_ s
      else if holderLosesRight h rm wm s = true then refuseCommand .locked s
      else
        complete .done [rightsWord w.group w.readMask w.writeMask]
          (s.setWindow h.index { w with readMask := rm, writeMask := wm, group := g }) := by
  simp only [modifyCommand, hw, hd, ho, Bool.not_eq_true', Bool.and_eq_false_iff, Bool.false_eq_true, if_false]

theorem holderLosesRight_iff {h : Handle} {rm wm : BitVec 4} :
    holderLosesRight h rm wm s = true ↔
      ∃ p, s.lockHolder h = some p ∧ ¬(inMask rm p = true ∧ inMask wm p = true) := by
  unfold holderLosesRight
  cases s.lockHolder h with
  | none => simp
  | some p => cases hr : inMask rm p <;> simp [hr]

end Sys2Proof.Machine

namespace Sys2Proof

open Machine

/-- Settles O13: each operand field has its own test. -/
theorem openOperandsGiveTheInitialRecord : Obligations.OpenOperandsGiveTheInitialRecord := by
  refine ⟨fun s => ?_, fun s w h => ?_⟩
  · rw [openOperands_isSome, openBody_isSome, lineSizeOf_isSome, maskOf_field_isSome, maskOf_field_isSome,
      groupOf_isSome, rangeAllowed_iff]
    constructor
    · rintro ⟨⟨hk, hl, hb⟩, hz, hrm, hwm, hg, h2, h1, h256, hend⟩
      exact ⟨hk, h2, h1, h256, hz, hend, hrm, hwm, hg, hl, hb⟩
    · rintro ⟨hk, h2, h1, h256, hz, hend, hrm, hwm, hg, hl, hb⟩
      exact ⟨⟨hk, hl, hb⟩, hz, hrm, hwm, hg, h2, h1, h256, hend⟩
  · obtain ⟨k, z, rm, wm, g, b, hk, hz, hrm, hwm, hg, hb, -, rfl⟩ := openOperands_eq_some.1 h
    exact ⟨rfl, rfl, lineSizeOf_eq_some.1 hz, (maskOf_field_eq_some.1 hrm).2, (maskOf_field_eq_some.1 hwm).2,
      groupOf_eq_some.1 hg, openBody_of_kind hk hb⟩

/-- Settles O14: the checks one after the other, and the filled slot. -/
theorem openChecksInOrderAndFills : Obligations.OpenChecksInOrderAndFills := by
  intro cnt s ha
  have row : exec (.openWindow cnt) s = .next (openCommand (s.taking codeOpen cnt)) := takeCommand_taking ha
  rw [row]
  refine ⟨fun h => ?_, fun i hi => ⟨fun ho => ?_, fun w ho => ?_⟩⟩
  · rw [openCommand_noSpace (s := s.taking codeOpen cnt) (freeSlot?_of_filled h), refuseCommand_taking]
  · rw [openCommand_badOperand (s := s.taking codeOpen cnt) (freeSlot?_of_lowestFree hi) ho,
      refuseCommand_taking]
  · rw [openCommand_described (s := s.taking codeOpen cnt) (freeSlot?_of_lowestFree hi) ho]
    simp only [groups_taking, rangeOverlaps_taking, storeConflict_taking, refuseCommand_taking]
    refine ⟨fun hg => if_pos hg ▸ rfl, fun hg => ⟨fun hr => ?_, fun hr => ⟨fun hc => ?_, fun h1 h2 h3 => ?_⟩⟩⟩
    · simp [hg, rangeOverlaps_iff.2 hr]
    · simp [hg, rangeOverlaps_eq_false.2 hr, storeConflict_iff.2 hc]
    · simp only [hg, rangeOverlaps_eq_false.2 hr, storeConflict_eq_false.2 ⟨h1, h2, h3⟩, fillAndComplete_eq,
        Bool.true_eq_false, Bool.false_eq_true, if_false]
      rfl

/-- Settles O15: the checks one after the other, and the two slots written. -/
theorem viewChecksInOrderAndFills : Obligations.ViewChecksInOrderAndFills := by
  refine ⟨fun s => ⟨⟨fun h => ?_, fun ⟨h2, hm, hwm, hg⟩ => ?_⟩, fun rm g h => ?_⟩, fun cnt s ha => ?_⟩
  · obtain ⟨⟨rm, g⟩, h⟩ := Option.isSome_iff_exists.1 h
    obtain ⟨hrm, hg, h2, hwm⟩ := viewOperands_eq_some.1 h
    exact ⟨pageAligned_iff.1 h2, (maskOf_field_eq_some.1 hrm).1, hwm,
      groupOf_isSome.1 (Option.isSome_iff_exists.2 ⟨g, hg⟩)⟩
  · obtain ⟨g, hg⟩ := Option.isSome_iff_exists.1 (groupOf_isSome.2 hg)
    exact Option.isSome_iff_exists.2
      ⟨_, viewOperands_eq_some.2 ⟨maskOf_field_eq_some.2 ⟨hm, rfl⟩, hg, pageAligned_iff.2 h2, hwm⟩⟩
  · obtain ⟨hrm, hg, -, -⟩ := viewOperands_eq_some.1 h
    exact ⟨(maskOf_field_eq_some.1 hrm).2, groupOf_eq_some.1 hg⟩
  · have row : exec (.openView cnt) s = .next (viewCommand (s.taking codeView cnt)) := takeCommand_taking ha
    rw [row]
    refine ⟨fun h => ?_, fun i hi => ?_⟩
    · rw [viewCommand_noSpace (s := s.taking codeView cnt) (freeSlot?_of_filled h), refuseCommand_taking]
    have hf : (s.taking codeView cnt).freeSlot? = some i := freeSlot?_of_lowestFree hi
    refine ⟨fun ho => ?_, fun rm g ho => ⟨fun hw => ?_, fun h w hw => ⟨fun hd => ?_, fun hk => ?_,
      fun p hb hd => ?_⟩⟩⟩
    · rw [viewCommand_badOperand hf ho, refuseCommand_taking]
    · rw [viewCommand_notFound hf ho hw, refuseCommand_taking]
    · rw [viewCommand_retiring hf ho hw hd, refuseCommand_taking]
    · rw [viewCommand_wrongKind hf ho hw hk, refuseCommand_taking]
    · rw [viewCommand_source hf ho hw hb hd]
      simp only [opr_taking, groups_taking, rangeOverlaps_taking, refuseCommand_taking]
      refine ⟨fun hr => if_pos hr ▸ rfl, fun hr => ⟨fun hg => ?_, fun hg => ⟨fun hv => ?_, fun hv => ?_⟩⟩⟩
      · simp [hr, hg]
      · simp [hr, hg, rangeOverlaps_iff.2 hv]
      · have other : (s.taking codeView cnt |>.setPaired h.index w { p with views := p.views + 1 }).slot i =
            s.slot i := by
          rw [slot_setPaired, if_neg, slot_taking]
          rintro rfl
          cases (window?_eq_some.1 (oprWindow_eq_some hw).2).2.symm.trans hi.1
        simp only [hr, hg, rangeOverlaps_eq_false.2 hv, fillAndComplete_eq, other, Bool.true_eq_false,
          Bool.false_eq_true, if_false]
        rw [fillSlot, other]
        rfl

/-- Settles O16: the checks one after the other, and the record written. -/
theorem modifyChecksInOrderAndReplaces : Obligations.ModifyChecksInOrderAndReplaces := by
  refine ⟨fun s w => ⟨⟨fun h => ?_, fun ⟨hr, hm, hg, hv⟩ => ?_⟩, fun rm wm g h => ?_⟩, fun cnt s ha => ?_⟩
  · obtain ⟨⟨rm, wm, g⟩, h⟩ := Option.isSome_iff_exists.1 h
    obtain ⟨hrm, hwm, hg, hv⟩ := modifyOperands_eq_some.1 h
    obtain ⟨hr, -⟩ := maskOf_field_eq_some.1 hrm
    obtain ⟨hm, rfl⟩ := maskOf_field_eq_some.1 hwm
    exact ⟨hr, hm, groupOf_isSome.1 (Option.isSome_iff_exists.2 ⟨g, hg⟩), hv⟩
  · obtain ⟨g, hg⟩ := Option.isSome_iff_exists.1 (groupOf_isSome.2 hg)
    exact Option.isSome_iff_exists.2
      ⟨_, modifyOperands_eq_some.2
        ⟨maskOf_field_eq_some.2 ⟨hr, rfl⟩, maskOf_field_eq_some.2 ⟨hm, rfl⟩, hg, hv⟩⟩
  · obtain ⟨hrm, hwm, hg, -⟩ := modifyOperands_eq_some.1 h
    exact ⟨(maskOf_field_eq_some.1 hrm).2, (maskOf_field_eq_some.1 hwm).2, groupOf_eq_some.1 hg⟩
  · have row : exec (.modify cnt) s = .next (modifyCommand (s.taking codeModify cnt)) := takeCommand_taking ha
    rw [row]
    refine ⟨fun hw => ?_, fun h w hw => ⟨fun hd => ?_, fun hd => ⟨fun ho => ?_, fun rm wm g ho => ?_⟩⟩⟩
    · rw [modifyCommand_notFound (s := s.taking codeModify cnt) hw, refuseCommand_taking]
    · rw [modifyCommand_retiring (s := s.taking codeModify cnt) hw hd, refuseCommand_taking]
    · rw [modifyCommand_badOperand (s := s.taking codeModify cnt) hw hd ho, refuseCommand_taking]
    · rw [modifyCommand_described (s := s.taking codeModify cnt) hw hd ho]
      simp only [groups_taking, holderLosesRight_taking, refuseCommand_taking]
      refine ⟨fun hg => if_pos hg ▸ rfl, fun hw hg => ⟨fun hl => ?_, fun hl => ?_⟩⟩
      · simp [hw, hg, holderLosesRight_iff.2 hl]
      · have keeps : holderLosesRight h rm wm s = false := by
          rw [Bool.eq_false_iff, Ne, holderLosesRight_iff]
          rintro ⟨p, hp, hn⟩
          exact hn (hl p hp)
        simp only [hw, hg, keeps, Bool.true_eq_false, Bool.false_eq_true, or_self, if_false]
        rfl

end Sys2Proof
end

section
/-! RETIRE in its cases, and what the freeing of a window leaves. -/

namespace Sys2Proof.Machine

variable {s t : State} {code cnt : BitVec 8} {h : Handle} {w : Window} {p : Paired}

/-! ### Freeing a window (R8) -/

theorem dropView_cmd (w : Window) (s : State) (u : CommandUnit) :
    dropView w { s with cmd := u } = { dropView w s with cmd := u } := by
  cases hb : w.body with
  | view src =>
    have same : State.paired? { s with cmd := u } src = s.paired? src := rfl
    simp only [dropView, hb, same]
    cases s.paired? src <;> rfl
  | plain l => simp only [dropView, hb]
  | tracked l d => simp only [dropView, hb]
  | paired p => simp only [dropView, hb]

/-- The command unit has no part in a freeing. -/
theorem freeWindow_cmd (h : Handle) (s : State) (u : CommandUnit) :
    freeWindow h { s with cmd := u } = { freeWindow h s with cmd := u } := by
  cases hw : s.window? h with
  | none =>
    rw [freeWindow_unmatched hw, freeWindow_unmatched (s := { s with cmd := u }) hw]
  | some w =>
    rw [freeWindow_matched hw, freeWindow_matched (s := { s with cmd := u }) hw]
    exact dropView_cmd w (s.emptied h w) u

/-- A source that a freed view names still matches, and is another window. -/
theorem paired?_emptied {src : Handle} {v : Window} (hw : s.window? h = some w) (hb : w.body = .view src)
    (hp : s.paired? src = some (v, p)) : (s.emptied h w).paired? src = some (v, p) := by
  obtain ⟨hv, hvb⟩ := paired?_eq_some.1 hp
  have other : src ≠ h := by
    rintro rfl
    rw [hw] at hv
    cases hv
    rw [hb] at hvb
    cases hvb
  exact paired?_eq_some.2 ⟨by rw [window?_emptied hw, if_neg other, hv], hvb⟩

theorem slot_dropView_of_empty {i : SlotId} (w : Window) (hi : (s.slot i).win = none) :
    (dropView w s).slot i = s.slot i := by
  rcases dropView_cases w s with e | ⟨src, v, p, -, hp, e⟩
  · rw [e]
  · rw [e, slot_setPaired, if_neg]
    rintro rfl
    have filled := (window?_eq_some.1 (paired?_eq_some.1 hp).1).2
    rw [hi] at filled
    cases filled

theorem slot_dropView_of_other {i : SlotId} (h : ∀ src, w.body = .view src → src.index ≠ i) :
    (dropView w s).slot i = s.slot i := by
  rcases dropView_cases w s with e | ⟨src, v, p, hb, -, e⟩
  · rw [e]
  · rw [e, slot_setPaired, if_neg (h src hb)]

theorem slot_freeWindow_same (hw : s.window? h = some w) :
    (freeWindow h s).slot h.index = { inst := h.inst, win := none } := by
  have emptied : (s.emptied h w).slot h.index = { inst := h.inst, win := none } := by
    rw [slot_emptied, if_pos rfl, ← (window?_eq_some.1 hw).1]
  rw [freeWindow_matched hw, slot_dropView_of_empty w (by rw [emptied]), emptied]

/-- Beside the slot and a source's view count a freeing changes the free count, the guards and the drain
queue. -/
theorem freeWindow_only (hw : s.window? h = some w) :
    freeWindow h s =
      { s with slots := (freeWindow h s).slots, free := s.free + w.marks,
               urgency := urgencyAfter s.engine.config.urgeOn s.engine.config.urgeOff
                 (s.free + w.marks) s.urgency,
               guards := s.guards.map (keepGuard h),
               engine := { s.engine with drainQueue := s.engine.drainQueue.filter (· ≠ h) } } := by
  rw [freeWindow_matched hw]
  rcases dropView_cases w (s.emptied h w) with e | ⟨src, v, p, -, -, e⟩ <;> rw [e] <;> rfl

theorem window?_freeWindow_same (hw : s.window? h = some w) : (freeWindow h s).window? h = none := by
  unfold State.window?
  rw [slot_freeWindow_same hw]
  simp

/-! ### RETIRE, past each of its checks (R155) -/

theorem retireCommand_notFound (ho : oprWindow s = none) : retireCommand s = refuseCommand .notFound s := by
  simp [retireCommand, ho]

theorem retireCommand_locked (ho : oprWindow s = some (h, w)) (hl : s.isLocked h = true) :
    retireCommand s = refuseCommand .locked s := by
  simp [retireCommand, ho, hl]

theorem retireCommand_protected (ho : oprWindow s = some (h, w)) (hl : s.isLocked h = false)
    (hg : s.groups.isOpen w.group = false) : retireCommand s = refuseCommand .protected_ s := by
  simp [retireCommand, ho, hl, hg]

theorem retireCommand_retiring (ho : oprWindow s = some (h, w)) (hl : s.isLocked h = false)
    (hg : s.groups.isOpen w.group = true) (hd : w.draining = true) (hf : bitAt (opr s 1) 0 = true) :
    retireCommand s = refuseCommand .retiring s := by
  simp [retireCommand, ho, hl, hg, hd, hf]

theorem retireCommand_paired (ho : oprWindow s = some (h, w)) (hl : s.isLocked h = false)
    (hg : s.groups.isOpen w.group = true) (hf : ¬(w.draining = true ∧ bitAt (opr s 1) 0 = true))
    (hb : w.body = .paired p) :
    retireCommand s =
      if 0 < p.views then refuseCommand .hasViews s
      else if bitAt (opr s 1) 0 = true then enterDraining h w p s
      else retirePaired h s := by
  simp only [retireCommand, ho, hl, hg, hb]
  simp [hf]

theorem retireCommand_unpaired (ho : oprWindow s = some (h, w)) (hl : s.isLocked h = false)
    (hg : s.groups.isOpen w.group = true) (hk : w.kind ≠ .paired) : retireCommand s = retireNow h s := by
  have hd := draining_of_kind hk
  unfold Window.kind at hk
  cases hb : w.body <;> simp_all [retireCommand]

theorem exec_retire (ha : s.accepts) :
    exec (.retire cnt) s = .next (arbitrate (retireCommand (s.taking codeRetire cnt))) :=
  takeCommand_taking (f := fun t => arbitrate (retireCommand t)) ha

theorem retireNow_taking (h : Handle) (s : State) :
    retireNow h (s.taking code cnt) = { freeWindow h s with cmd := s.cmd.completed code cnt .done [] } := by
  unfold retireNow State.taking
  rw [freeWindow_cmd]
  rfl

theorem retirePaired_elsewhere (hu : s.pubUnit.handle? ≠ some h) : retirePaired h s = retireNow h s := by
  simp [retirePaired, hu]

/-- A publish that is copying is asked for an abandon (R156). -/
theorem retirePaired_asks (hu : s.pubUnit.handle? = some h) (hp : s.pausedOn h = false) :
    retirePaired h s = requestAbandon .retired s := by
  simp [retirePaired, hu, hp]

/-! ### RETIRE with FLUSH, and a drain that ends at once (R116, R157) -/

theorem enterDraining_eq (h : Handle) (w : Window) (p : Paired) (s : State) :
    enterDraining h w p s =
      if s.engine.state = .idle then
        boundaryChoice (complete .accepted []
          (modEngine (fun e => { e with drainQueue := e.drainQueue ++ [h] })
            (s.setPaired h.index w { p with drain := some 0 })))
      else
        complete .accepted []
          (modEngine (fun e => { e with drainQueue := e.drainQueue ++ [h] })
            (s.setPaired h.index w { p with drain := some 0 })) := rfl

theorem choiceStep_quiet (q : s.quiet) : choiceStep s = (s, false) := by
  simp [choiceStep, q.urgentRun, q.urgentRequested, q.drainQueue, q.context, q.run, q.regularPending,
    settleIdle, q.state]

theorem choiceLoop_quiet (n : Nat) (q : s.quiet) : choiceLoop n s = s := by
  cases n with
  | zero => rfl
  | succ n => rw [choiceLoop_ends (by rw [choiceStep_quiet q]), choiceStep_quiet q]

/-- A choice that leaves the engine quiet is the last one. -/
theorem boundaryChoice_once (hu : s.pubUnit = .ready) (hc : choiceStep s = (t, true)) (q : t.quiet) :
    boundaryChoice s = t := by
  simp only [boundaryChoice, hu, if_true]
  rw [choiceLoop_again (by rw [hc]), hc, choiceLoop_quiet _ q]

/-- The choice of an engine that has nothing before its drains (R100). -/
theorem choiceStep_drain {qs : List Handle} (hr : s.engine.urgentRun = none)
    (hq : s.engine.urgentRequested = false) (hd : s.engine.drainQueue = h :: qs) :
    choiceStep s = drainStep h s := by
  simp [choiceStep, hr, hq, hd]

theorem drainStep_clean (hp : s.paired? h = some (w, p)) (hw : p.work = none) (hd : p.dirty = .lines []) :
    drainStep h s = (drainFree .clean h s, true) := by
  simp [drainStep, hp, Paired.drained, hw, hd]

theorem drainFree_only (o : DrainOutcome) (hw : s.window? h = some w) :
    drainFree o h s =
      { s with
        slots := (freeWindow h s).slots, free := s.free + w.marks,
        urgency := urgencyAfter s.engine.config.urgeOn s.engine.config.urgeOff (s.free + w.marks) s.urgency,
        guards := s.guards.map (keepGuard h),
        engine := { s.engine with drainQueue := s.engine.drainQueue.filter (· ≠ h) },
        events := { s.events.raised .windowFreed with
                    retireReport := { index := h.index, inst := h.inst, outcome := some o } } } := by
  simp only [drainFree]
  rw [freeWindow_only hw]
  rfl

/-- A window with nothing left to publish, alone in the drain queue of an engine else quiet, is freed CLEAN. -/
theorem boundaryChoice_drains (q : s.quiet) (he : t.engine = { s.engine with drainQueue := s.engine.drainQueue ++ [h] })
    (hu : t.pubUnit = .ready) (hp : t.paired? h = some (w, p)) (hw : p.work = none) (hd : p.dirty = .lines []) :
    boundaryChoice t = drainFree .clean h t ∧ (drainFree .clean h t).quiet := by
  have engine : (drainFree .clean h t).engine = s.engine := by
    have same : ({ s.engine with drainQueue := [] } : Engine) = s.engine := by rw [← q.drainQueue]
    rw [drainFree_only .clean (paired?_eq_some.1 hp).1, he]
    simpa [q.drainQueue] using same
  have quiet := q.of_engine engine
  have choice : choiceStep t = (drainFree .clean h t, true) := by
    rw [choiceStep_drain (h := h) (qs := []) (by rw [he]; exact q.urgentRun) (by rw [he]; exact q.urgentRequested)
      (by rw [he, q.drainQueue]; rfl), drainStep_clean hp hw hd]
  exact ⟨boundaryChoice_once hu choice quiet, quiet⟩

end Sys2Proof.Machine

namespace Sys2Proof

open Machine

/-- Settles O17: the checks one after the other, and the freeing in the cases that come to it at once. -/
theorem retireChecksInOrderAndFrees : Obligations.RetireChecksInOrderAndFrees := by
  refine ⟨fun cnt s ha => ⟨fun ho => ?_, fun h w ho => ⟨fun hl => ?_, fun hl => ⟨fun hg => ?_, fun hg =>
    ⟨fun hd hf => ?_, fun hf p hb hv => ?_⟩⟩⟩⟩, fun cnt s h w ha ho hl hg hk => ?_⟩
  · rw [exec_retire ha, retireCommand_notFound (s := s.taking codeRetire cnt) ho, refuseCommand_taking]
  · rw [exec_retire ha, retireCommand_locked (s := s.taking codeRetire cnt) ho hl, refuseCommand_taking]
  · rw [exec_retire ha, retireCommand_protected (s := s.taking codeRetire cnt) ho hl hg, refuseCommand_taking]
  · rw [exec_retire ha, retireCommand_retiring (s := s.taking codeRetire cnt) ho hl hg hd hf, refuseCommand_taking]
  · rw [exec_retire ha, retireCommand_paired (s := s.taking codeRetire cnt) ho hl hg hf hb, if_pos hv,
      refuseCommand_taking]
  · rw [exec_retire ha, ← retireNow_taking]
    rcases hk with hk | ⟨hf, hu, p, hb, hv⟩
    · rw [retireCommand_unpaired (s := s.taking codeRetire cnt) ho hl hg hk]
    · rw [retireCommand_paired (s := s.taking codeRetire cnt) ho hl hg (by simp [hf]) hb, if_neg (by omega),
        if_neg (by simp [hf]), retirePaired_elsewhere (s := s.taking codeRetire cnt) hu]

/-- Settles O18. -/
theorem freeingReturnsWhatTheWindowHeld : Obligations.FreeingReturnsWhatTheWindowHeld := by
  intro h w s hw
  have only := freeWindow_only hw
  refine ⟨slot_freeWindow_same hw, by rw [only], fun i => ?_, fun x => by rw [only]; simp,
    fun src v p hb hp => ?_, fun i hi hs => ?_, ?_⟩
  · have kept : (freeWindow h s).guard i = keepGuard h (s.guard i) := by
      rw [freeWindow_matched hw, guard_congr (t := s.emptied h w), guard_emptied]
      rcases dropView_cases w (s.emptied h w) with e | ⟨src, v, p, -, -, e⟩
      · rw [e]
      · rw [e]
        rfl
    rw [kept]
    cases s.guard i <;> rfl
  · have hp' := paired?_emptied hw hb hp
    have dropped : dropView w (s.emptied h w) =
        (s.emptied h w).setPaired src.index v { p with views := p.views - 1 } := by
      simp only [dropView, hb, hp']
    rw [freeWindow_matched hw, dropped, window?_setPaired _ hp', if_pos rfl]
  · rw [freeWindow_matched hw, slot_dropView_of_other hs, slot_emptied, if_neg (Ne.symm hi)]
  · rw [only]

/-- Settles O19: the unit that is copying keeps the cause for its boundary. -/
theorem retireWaitsForTheLineBoundary : Obligations.RetireWaitsForTheLineBoundary := by
  intro cnt s h w p ha ho hb hv hl hg hf
  have retire : retireCommand (s.taking codeRetire cnt) = retirePaired h (s.taking codeRetire cnt) := by
    rw [retireCommand_paired (s := s.taking codeRetire cnt) ho hl hg (by simp [hf]) hb, if_neg (by omega),
      if_neg (by simp [hf])]
  rw [exec_retire ha, retire]
  refine ⟨fun r n hu hr => ?_, fun r n bs hu hr => ?_⟩
  · rw [retirePaired_asks (by simp [hu, PubUnit.handle?, hr]) (by simp [State.pausedOn, hu])]
    simp only [requestAbandon, pubUnit_taking, hu]
    rfl
  · rw [retirePaired_asks (by simp [hu, PubUnit.handle?, hr]) (by simp [State.pausedOn, hu])]
    simp only [requestAbandon, pubUnit_taking, hu]
    rfl

/-- Settles O20: an engine at work takes up the drain later, and a quiet one frees a window that has nothing
left to publish. -/
theorem retireWithFlushDrains : Obligations.RetireWithFlushDrains := by
  intro cnt s h w p ha ho hb hv hdr hl hg hf
  have hd : w.draining = false := by simp [Window.draining, hb, hdr]
  have retire : retireCommand (s.taking codeRetire cnt) = enterDraining h w p (s.taking codeRetire cnt) := by
    rw [retireCommand_paired (s := s.taking codeRetire cnt) ho hl hg (by simp [hd]) hb, if_neg (by omega),
      opr_taking, if_pos hf]
  rw [exec_retire ha, retire, enterDraining_eq, engine_taking]
  refine ⟨fun hs => ?_, fun q hu hq hw hdi => ?_⟩
  · rw [if_neg hs]
    rfl
  · rw [if_pos q.state]
    generalize ht : complete .accepted [] (modEngine (fun e => { e with drainQueue := e.drainQueue ++ [h] })
      ((s.taking codeRetire cnt).setPaired h.index w { p with drain := some 0 })) = t
    have hp : (s.taking codeRetire cnt).paired? h = some (w, p) :=
      paired?_eq_some.2 ⟨(oprWindow_eq_some ho).2, hb⟩
    have engine : t.engine = { s.engine with drainQueue := s.engine.drainQueue ++ [h] } := by
      rw [← ht]
      rfl
    have matched : t.paired? h =
        some ({ w with body := .paired { p with drain := some 0 } }, { p with drain := some 0 }) := by
      rw [← ht]
      exact paired?_setPaired hp
    have unit : t.pubUnit = .ready := by rw [← ht]; exact hu
    have marks : ({ w with body := .paired { p with drain := some 0 } } : Window).marks = p.carry.marks := by
      simp [Window.marks, workMarks, LineSet.marks, hw, hdi]
    have hm := (paired?_eq_some.1 matched).1
    have only := drainFree_only .clean hm
    obtain ⟨choice, quiet⟩ := boundaryChoice_drains q engine unit matched hw hdi
    have idle : arbitrate (drainFree .clean h t) = drainFree .clean h t := by
      refine arbitrate_idle (fun x => ?_) ?_
      · rw [← hq x, waitingAccess_congr]
        rw [only, ← ht]
        rfl
      · rw [only]
        simp [State.unitWaiting, unit, PubUnit.wantsStore]
    refine ⟨drainFree .clean h t, by rw [choice, idle], window?_freeWindow_same hm, ?_, quiet.drainQueue,
      quiet.state, isPending_raise_same _ _, rfl, ?_⟩
    · rw [only, marks, ← ht]
      rfl
    · rw [only, ← ht]
      rfl

end Sys2Proof
end

section
/-! QUERY, LOOKUP and COLLECT, and the guard commands. -/

namespace Sys2Proof.Machine

variable {s t : State} {code cnt : BitVec 8} {h : Handle} {w : Window} {p : Paired}

/-! ### QUERY's words (R160) -/

@[simp] theorem at_zero_value (lo : Nat) : at_ lo 0 = 0 := by
  simp [at_]

theorem getD_map_val (o : Option PortId) : (o.map Fin.val).getD 0 = o.elim 0 Fin.val := by
  cases o <;> rfl

theorem stateCode_unpaired (hk : w.kind ≠ .paired) : w.stateCode = 1 := by
  simp [Window.stateCode, draining_of_kind hk]

/-- The first three words of a window that is not PAIRED, and the words of its body (11.4). -/
theorem queryWords_unpaired (hk : w.kind ≠ .paired) :
    queryWords s h w =
      [ at_ 0 1 ||| at_ 4 w.kind.code ||| at_ 8 h.inst.toNat ||| at_ 16 w.group.val |||
          at_ 18 (s.groups.isOpen w.group).toNat ||| at_ 19 (s.isLocked h).toNat |||
          at_ 20 ((s.lockHolder h).elim 0 Fin.val),
        w.base &&& 0xFFFFF000#32 ||| at_ 9 w.lineSize.code ||| at_ 0 w.pages,
        at_ 16 w.lineCount, at_ 0 (queryBody w.body).dirty ||| at_ 16 0xFFFF, (queryBody w.body).live, 0, 0,
        at_ 0 0xFFFF ||| at_ 16 0xFFFF ] := by
  have hs := stateCode_unpaired hk
  have body : ∀ b, w.body = b → w.kind ≠ .paired → (queryBody b).drain = 0 ∧ (queryBody b).bank = 0 ∧
      (queryBody b).views = 0 ∧ (queryBody b).gen = 0 ∧ (queryBody b).pos = 0xFFFF ∧ (queryBody b).bankA = 0 ∧
      (queryBody b).bankB = 0 ∧ (queryBody b).work = 0xFFFF ∧ (queryBody b).carry = 0xFFFF := by
    intro b hb hk
    cases b with
    | paired p => exact absurd (by simp [Window.kind, hb]) hk
    | plain l => exact ⟨rfl, rfl, rfl, rfl, rfl, rfl, rfl, rfl, rfl⟩
    | tracked l d => exact ⟨rfl, rfl, rfl, rfl, rfl, rfl, rfl, rfl, rfl⟩
    | view src => exact ⟨rfl, rfl, rfl, rfl, rfl, rfl, rfl, rfl, rfl⟩
  obtain ⟨h1, h2, h3, h4, h5, h6, h7, h8, h9⟩ := body w.body rfl hk
  simp [queryWords, QueryReport.words, queryReport, hs, h1, h2, h3, h4, h5, h6, h7, h8, h9, getD_map_val,
    flagAt, State.isLocked]

theorem queryWords_paired (hb : w.body = .paired p) :
    queryWords s h w =
      [ at_ 0 (if p.drain.isSome then 2 else 1) ||| at_ 2 (p.drain.getD 0) ||| at_ 4 3 |||
          at_ 7 (if p.current = .a then 0 else 1) ||| at_ 8 h.inst.toNat ||| at_ 16 w.group.val |||
          at_ 18 (s.groups.isOpen w.group).toNat ||| at_ 19 (s.isLocked h).toNat |||
          at_ 20 ((s.lockHolder h).elim 0 Fin.val) ||| at_ 22 p.views,
        w.base &&& 0xFFFFF000#32 ||| at_ 9 w.lineSize.code ||| at_ 0 w.pages,
        at_ 0 p.gen.toNat ||| at_ 16 w.lineCount,
        at_ 0 (setField (some p.dirty)) ||| at_ 16 (match p.work with | none => 0xFFFF | some k => k.pos),
        p.live, p.bankA, p.bankB,
        at_ 0 (match p.work with | none => 0xFFFF | some k => setField (some k.set)) |||
          at_ 16 (setField (some p.carry)) ] := by
  have hd : w.draining = p.drain.isSome := by simp [Window.draining, hb]
  have hk : w.kind = .paired := by simp [Window.kind, hb]
  have bank : p.current.code = if p.current = .a then 0 else 1 := by cases p.current <;> rfl
  simp only [queryWords, QueryReport.words, queryReport, queryBody, hb, hk, Window.stateCode, hd, bank,
    getD_map_val, flagAt, State.isLocked]
  cases p.work <;> rfl

/-! ### LOOKUP (R162) -/

theorem lookupStore_live {l x : Nat} (hl : w.live? = some l) : lookupStore s w x = l + x := by
  unfold Window.live? at hl
  unfold lookupStore
  cases hb : w.body <;> simp_all

theorem unpublished_of_kind (hk : w.kind ≠ .view) : unpublished s w = false := by
  unfold Window.kind at hk
  unfold unpublished
  cases hb : w.body <;> simp_all

theorem lookupWords_eq (s : State) (q : PortId) (i : SlotId) (w : Window) (a : Nat) :
    lookupWords s q i w a =
      [ at_ 0 (i.val + 256 * (s.slot i).inst.toNat) ||| at_ 16 w.kind.code |||
          at_ 20 (if w.draining then 2 else 1) ||| at_ 24 (inMask w.readMask q).toNat |||
          at_ 25 (inMask w.writeMask q).toNat ||| at_ 26 (decide ((s.port q).state = .active)).toNat |||
          at_ 27 (unpublished s w).toNat,
        BitVec.ofNat 32 (a - w.base.toNat), BitVec.ofNat 32 ((a - w.base.toNat) / w.lineSize.bytes),
        BitVec.ofNat 32 (lookupStore s w (a - w.base.toNat)) ] := by
  rw [← at_zero (a - w.base.toNat), ← at_zero ((a - w.base.toNat) / w.lineSize.bytes)]
  rfl

theorem windowAt_eq_none {a : Nat} (hn : ∀ i w, (s.slot i).win = some w → w.covers a = false) :
    s.windowAt a = none := by
  have missed : s.lookup a = none := by
    refine find?_finRange_eq_none fun i => ?_
    cases hw : (s.slot i).win with
    | none => rfl
    | some w => exact hn i w hw
  simp [State.windowAt, missed]

/-! ### COLLECT (R55 to R57) -/

theorem collectCommand_notFound (ho : oprWindow s = none) : collectCommand s = refuseCommand .notFound s := by
  simp [collectCommand, ho]

theorem collectCommand_wrongKind (ho : oprWindow s = some (h, w)) (hk : w.kind ≠ .tracked) :
    collectCommand s = refuseCommand .wrongKind s := by
  unfold Window.kind at hk
  cases hb : w.body <;> simp_all [collectCommand]

/-- Result words that end in zeros fill the same eight. -/
theorem resultWords_whole : resultWords (collectWords [] true 0) = resultWords [at_ 5 1] := by
  decide

/-! ### GUARD (R137) -/

theorem signOf_eq_some {c : BitVec 2} {x : Signedness} :
    signOf c = some x ↔ (c = 1 ∨ c = 2) ∧ x = if c = 1 then .unsigned else .signed := by
  unfold signOf
  by_cases h1 : c = 1
  · simp [h1, eq_comm]
  · by_cases h2 : c = 2
    · subst h2; simp [eq_comm]
    · rw [if_neg h1, if_neg h2]
      exact ⟨nofun, fun ⟨hc, _⟩ => absurd hc (by simp only [h1, h2, or_self, not_false_eq_true])⟩

theorem actionOf_eq_some {c : BitVec 2} {x : GuardAction} :
    actionOf c = some x ↔ (c = 1 ∨ c = 2) ∧ x = if c = 1 then .refuse else .report := by
  unfold actionOf
  by_cases h1 : c = 1
  · simp [h1, eq_comm]
  · by_cases h2 : c = 2
    · subst h2; simp [eq_comm]
    · rw [if_neg h1, if_neg h2]
      exact ⟨nofun, fun ⟨hc, _⟩ => absurd hc (by simp only [h1, h2, or_self, not_false_eq_true])⟩

theorem rangeOrdered_iff {c : BitVec 2} {low high : Word} (hc : c = 1 ∨ c = 2) :
    rangeOrdered (if c = 1 then .unsigned else .signed) low high = true ↔
      c = 1 ∧ low.toNat ≤ high.toNat ∨ c = 2 ∧ low.toInt ≤ high.toInt := by
  rcases hc with rfl | rfl <;> simp [rangeOrdered, BitVec.ule, BitVec.sle]

theorem guardOperands_eq_some {g : Guard} :
    guardOperands s h w = some g ↔
      ∃ x y m, signOf (field (opr s 4) 0 2) = some x ∧ actionOf (field (opr s 4) 4 2) = some y ∧
        maskOf (field (opr s 4) 8 8) = some m ∧
        ((field (opr s 1) 0 20).toNat % 4 = 0 ∧ (field (opr s 1) 0 20).toNat < w.size ∧ m ≠ 0 ∧
          rangeOrdered x (opr s 2) (opr s 3) = true) ∧
        g = { window := h, offset := (field (opr s 1) 0 20).toNat, low := opr s 2, high := opr s 3, sign := x,
              action := y, mask := m, trip := none } := by
  simp only [guardOperands, Option.bind_eq_bind, Option.bind_eq_some_iff]
  constructor
  · rintro ⟨x, hx, y, hy, m, hm, hg⟩
    split at hg
    · next hc =>
      simp only [Bool.and_eq_true, beq_iff_eq, decide_eq_true_eq, bne_iff_ne, and_assoc] at hc
      exact ⟨x, y, m, hx, hy, hm, hc, (Option.some.inj hg).symm⟩
    · cases hg
  · rintro ⟨x, y, m, hx, hy, hm, ⟨h4, hs, hm0, hr⟩, rfl⟩
    exact ⟨x, hx, y, hy, m, hm, if_pos (by
      simp only [h4, hs, hr, bne_iff_ne.2 hm0, beq_self_eq_true, decide_true, Bool.and_self])⟩

theorem guardOperands_isSome :
    (guardOperands s h w).isSome = true ↔
      (field (opr s 1) 0 20).toNat % 4 = 0 ∧ (field (opr s 1) 0 20).toNat < w.size ∧
        (field (opr s 4) 0 2 = 1 ∧ (opr s 2).toNat ≤ (opr s 3).toNat ∨
          field (opr s 4) 0 2 = 2 ∧ (opr s 2).toInt ≤ (opr s 3).toInt) ∧
        (field (opr s 4) 4 2 = 1 ∨ field (opr s 4) 4 2 = 2) ∧
        field (opr s 4) 8 4 ≠ 0 ∧ field (opr s 4) 12 4 = 0 := by
  simp only [Option.isSome_iff_exists, guardOperands_eq_some, signOf_eq_some, actionOf_eq_some,
    maskOf_field_eq_some]
  constructor
  · rintro ⟨g, x, y, m, ⟨hx, rfl⟩, ⟨hy, -⟩, ⟨hm, rfl⟩, ⟨h4, hs, hm0, hr⟩, -⟩
    exact ⟨h4, hs, (rangeOrdered_iff hx).1 hr, hy, hm0, hm⟩
  · rintro ⟨h4, hs, hr, hy, hm0, hm⟩
    have hx : field (opr s 4) 0 2 = 1 ∨ field (opr s 4) 0 2 = 2 := hr.imp And.left And.left
    exact ⟨_, _, _, _, ⟨hx, rfl⟩, ⟨hy, rfl⟩, ⟨hm, rfl⟩, ⟨h4, hs, hm0, (rangeOrdered_iff hx).2 hr⟩, rfl⟩

theorem guardCommand_notFound (ho : oprWindow s = none) : guardCommand s = refuseCommand .notFound s := by
  simp [guardCommand, ho]

theorem guardCommand_wrongKind (ho : oprWindow s = some (h, w)) (hk : w.kind = .view) :
    guardCommand s = refuseCommand .wrongKind s := by
  simp [guardCommand, ho, hk]

theorem guardCommand_protected (ho : oprWindow s = some (h, w)) (hk : w.kind ≠ .view)
    (hg : s.groups.isOpen w.group = false) : guardCommand s = refuseCommand .protected_ s := by
  simp [guardCommand, ho, hk, hg]

theorem guardCommand_badOperand (ho : oprWindow s = some (h, w)) (hk : w.kind ≠ .view)
    (hg : s.groups.isOpen w.group = true) (hx : guardOperands s h w = none) :
    guardCommand s = refuseCommand .badOperand s := by
  simp [guardCommand, ho, hk, hg, hx]

theorem guardNamed_iff {n : Nat} :
    s.guards.toList.any (guardNames h n) = true ↔ ∃ i k, s.guard i = some k ∧ k.window = h ∧ k.offset = n := by
  simp only [List.any_eq_true, Vector.mem_toList_iff, Vector.mem_iff_getElem, State.guard]
  constructor
  · rintro ⟨x, ⟨i, hi, rfl⟩, hn⟩
    cases hx : s.guards[i] with
    | none => simp [guardNames, hx] at hn
    | some k =>
      simp only [guardNames, hx, Bool.and_eq_true, beq_iff_eq] at hn
      exact ⟨⟨i, hi⟩, k, hx, hn⟩
  · rintro ⟨i, k, hi, hw, ho⟩
    exact ⟨some k, ⟨i.val, i.isLt, hi⟩, by simp [guardNames, hw, ho]⟩

/-- GUARD's last two checks are in the guard table (R137). -/
theorem guardCommand_duplicate {g : Guard} (ho : oprWindow s = some (h, w)) (hk : w.kind ≠ .view)
    (hg : s.groups.isOpen w.group = true) (hx : guardOperands s h w = some g)
    (hd : ∃ i k, s.guard i = some k ∧ k.window = h ∧ k.offset = g.offset) :
    guardCommand s = refuseCommand .duplicate s := by
  simp only [guardCommand, ho, beq_eq_false_iff_ne.2 hk, hg, hx, guardNamed_iff.2 hd, Bool.not_true,
    Bool.false_eq_true, if_false, if_true]

theorem not_guardNamed {n : Nat} (hd : ∀ i k, s.guard i = some k → ¬(k.window = h ∧ k.offset = n)) :
    s.guards.toList.any (guardNames h n) = false := by
  rw [Bool.eq_false_iff, Ne, guardNamed_iff]
  rintro ⟨i, k, hi, hn⟩
  exact hd i k hi hn

theorem guardCommand_noSpace {g : Guard} (ho : oprWindow s = some (h, w)) (hk : w.kind ≠ .view)
    (hg : s.groups.isOpen w.group = true) (hx : guardOperands s h w = some g)
    (hd : ∀ i k, s.guard i = some k → ¬(k.window = h ∧ k.offset = g.offset)) (hf : s.freeGuard? = none) :
    guardCommand s = refuseCommand .noSpace s := by
  simp only [guardCommand, ho, beq_eq_false_iff_ne.2 hk, hg, hx, not_guardNamed hd, hf, Bool.not_true,
    Bool.false_eq_true, if_false]

theorem guardCommand_fills {g : Guard} {i : GuardId} (ho : oprWindow s = some (h, w)) (hk : w.kind ≠ .view)
    (hg : s.groups.isOpen w.group = true) (hx : guardOperands s h w = some g)
    (hd : ∀ i k, s.guard i = some k → ¬(k.window = h ∧ k.offset = g.offset)) (hf : s.freeGuard? = some i) :
    guardCommand s = complete .done [at_ 0 i.val] (s.setGuard i (some g)) := by
  simp only [guardCommand, ho, beq_eq_false_iff_ne.2 hk, hg, hx, not_guardNamed hd, hf, Bool.not_true,
    Bool.false_eq_true, if_false]

/-! ### GUARDQ's words (R139) -/

theorem or_trip (a b c d e f g : Word) :
    a ||| (b ||| c ||| d) ||| e ||| f ||| g = a ||| b ||| e ||| f ||| g ||| c ||| d := by
  ac_rfl

theorem guardWords_set (g : Guard) :
    guardWords (some g) =
      [ at_ 0 1 ||| at_ 1 g.trip.isSome.toNat ||| at_ 2 g.sign.code ||| at_ 4 g.action.code |||
          at_ 8 g.mask.toNat ||| at_ 16 (g.trip.elim 0 fun t => t.port.val) |||
          at_ 24 (g.trip.elim 0 Trip.count),
        BitVec.ofNat 32 (g.window.index.val + 256 * g.window.inst.toNat),
        BitVec.ofNat 32 g.offset, g.low, g.high, g.trip.elim 0 Trip.value ] := by
  rw [← at_zero, ← at_zero]
  cases ht : g.trip with
  | none =>
    simp only [guardWords, tripWords, ht, flagAt, handleField, Option.elim, Option.isSome_none, Bool.toNat_true,
      Bool.toNat_false, at_zero_value, BitVec.ofNat_eq_ofNat, BitVec.or_zero]
  | some x =>
    simp only [guardWords, tripWords, ht, flagAt, handleField, Option.elim, Option.isSome_some, Bool.toNat_true,
      or_trip]

theorem setGuard_self {i : GuardId} {x : Option Guard} (hg : s.guard i = x) : s.setGuard i x = s := by
  subst hg
  simp [State.setGuard, State.guard]

end Sys2Proof.Machine

namespace Sys2Proof

open Machine

/-- Settles O21: the layouts by the window's kind, and the translation by the windows that hold the address. -/
theorem queryAndLookupReport : Obligations.QueryAndLookupReport := by
  refine ⟨fun cnt s ha => ?_, ⟨rfl, fun _ => rfl⟩, ⟨rfl, rfl, rfl⟩, ⟨rfl, rfl, rfl, rfl⟩, fun s w x => ?_,
    fun cnt s ha => ?_⟩
  · have row : exec (.query cnt) s = .next (queryCommand (s.taking codeQuery cnt)) := takeCommand_taking ha
    rw [row]
    refine ⟨fun ho => ?_, fun h w ho => ⟨?_, rfl, rfl, fun l hb => ?_, fun src hb => ?_, fun p hb => ?_,
      fun l d hb => ?_⟩⟩
    · simp only [queryCommand, oprWindow_taking, ho, refuseCommand_taking]
    · simp only [queryCommand, oprWindow_taking, ho]
      rfl
    · have hk : w.kind = .plain := by simp [Window.kind, hb]
      rw [queryWords_unpaired (by simp [hk]), hb, hk]
      rfl
    · have hk : w.kind = .view := by simp [Window.kind, hb]
      rw [queryWords_unpaired (by simp [hk]), hb, hk]
      rfl
    · exact queryWords_paired hb
    · have hk : w.kind = .tracked := by simp [Window.kind, hb]
      rw [queryWords_unpaired (by simp [hk]), hb, hk]
      rfl
  · refine ⟨fun l hb => ?_, fun l d hb => ?_, fun p hb => ?_, unpublished_of_kind, fun src v p hb hp => ⟨?_, ?_⟩⟩
    · exact lookupStore_live (by simp [Window.live?, hb])
    · exact lookupStore_live (by simp [Window.live?, hb])
    · exact lookupStore_live (by simp [Window.live?, hb])
    · simp only [lookupStore, hb, hp]
      cases p.current <;> rfl
    · simp [unpublished, hb, hp]
  · have row : exec (.lookup cnt) s = .next (lookupCommand (s.taking codeLookup cnt)) := takeCommand_taking ha
    rw [row]
    refine ⟨fun hn => ?_, fun p hp => ⟨fun hn => ?_, fun i w hw => ?_⟩⟩
    · simp only [lookupCommand, opr_taking, portOf_eq_none hn, refuseCommand_taking]
    · simp only [lookupCommand, opr_taking, hp, windowAt_taking, windowAt_eq_none hn, refuseCommand_taking]
    · simp only [lookupCommand, opr_taking, hp, windowAt_taking, hw, lookupWords_eq]
      rfl

/-- Settles O22: the dirty set decides. -/
theorem collectTakesFromTheFront : Obligations.CollectTakesFromTheFront := by
  intro cnt s ha
  have row : exec (.collect cnt) s = .next (collectCommand (s.taking codeCollect cnt)) := takeCommand_taking ha
  rw [row]
  refine ⟨fun ho => ?_, fun h w ho => ⟨fun hk => ?_, fun live hb => ?_, fun live l hb => ?_⟩⟩
  · rw [collectCommand_notFound (s := s.taking codeCollect cnt) ho, refuseCommand_taking]
  · rw [collectCommand_wrongKind (s := s.taking codeCollect cnt) ho hk, refuseCommand_taking]
  · simp only [collectCommand, oprWindow_taking, ho, hb, complete, resultWords_whole]
    rfl
  · have words : collectWords (l.take 16) false (l.drop 16).length =
        (at_ 0 (min 16 l.length) ||| at_ 6 (l.length - 16)) ::
          (List.range 7).map fun k => (packIndices (l.take 16)).extractLsb' (32 * k) 32 := by
      simp [collectWords, flagAt, packedWord]
    have taken : (l.take 16).length = min 16 l.length := List.length_take
    simp only [collectCommand, oprWindow_taking, ho, hb, words, taken]
    rfl

/-- Settles O23: the operand fields, then the checks one after the other, and the record written. -/
theorem guardChecksInOrderAndFills : Obligations.GuardChecksInOrderAndFills := by
  refine ⟨fun s h w => ⟨guardOperands_isSome, fun g hg => ?_⟩, fun cnt s ha => ?_⟩
  · obtain ⟨x, y, m, hx, hy, -, -, rfl⟩ := guardOperands_eq_some.1 hg
    exact ⟨(signOf_eq_some.1 hx).2, (actionOf_eq_some.1 hy).2⟩
  · have row : exec (.guardSet cnt) s = .next (guardCommand (s.taking codeGuard cnt)) := takeCommand_taking ha
    rw [row]
    refine ⟨fun ho => ?_, fun h w ho => ⟨fun hk => ?_, fun hk => ⟨fun hg => ?_, fun hg => ⟨fun hx => ?_,
      fun g hx => ⟨?_, fun hd => ?_, fun hd => ⟨fun hf => ?_, fun i hi hj => ?_⟩⟩⟩⟩⟩⟩
    · rw [guardCommand_notFound (s := s.taking codeGuard cnt) ho, refuseCommand_taking]
    · rw [guardCommand_wrongKind (s := s.taking codeGuard cnt) ho hk, refuseCommand_taking]
    · rw [guardCommand_protected (s := s.taking codeGuard cnt) ho hk hg, refuseCommand_taking]
    · rw [guardCommand_badOperand (s := s.taking codeGuard cnt) ho hk hg hx, refuseCommand_taking]
    · obtain ⟨x, y, m, -, -, hm, ⟨h4, hs, hm0, hr⟩, rfl⟩ := guardOperands_eq_some.1 hx
      exact ⟨rfl, rfl, rfl, rfl, (maskOf_field_eq_some.1 hm).2, rfl, h4, hs, hm0, hr⟩
    · rw [guardCommand_duplicate (s := s.taking codeGuard cnt) ho hk hg hx hd, refuseCommand_taking]
    · rw [guardCommand_noSpace (s := s.taking codeGuard cnt) ho hk hg hx hd (freeGuard?_of_set hf),
        refuseCommand_taking]
    · rw [guardCommand_fills (s := s.taking codeGuard cnt) ho hk hg hx hd (freeGuard?_of_lowest hi hj)]
      rfl

/-- Settles O24: the record at the index decides. -/
theorem unguardFreesAndGuardqReports : Obligations.UnguardFreesAndGuardqReports := by
  intro cnt s ha
  have unguard : exec (.unguard cnt) s = .next (unguardCommand (s.taking codeUnguard cnt)) :=
    takeCommand_taking ha
  have guardq : exec (.guardq cnt) s = .next (guardqCommand (s.taking codeGuardq cnt)) := takeCommand_taking ha
  rw [unguard, guardq]
  refine ⟨fun hn => ?_, fun i hi => ⟨fun hg => ?_, fun g hg => ⟨fun ⟨w, hw, ho⟩ => ?_, fun ⟨w, hw, ho⟩ => ?_,
    ?_⟩⟩⟩
  · simp only [unguardCommand, guardqCommand, opr_taking, guardOf_eq_none hn, refuseCommand_taking, and_self]
  · simp only [unguardCommand, guardqCommand, opr_taking, hi, guard_taking, hg, refuseCommand_taking, true_and]
    by_cases hc : bitAt (opr s 1) 0 = true
    · have same : (s.taking codeGuardq cnt).setGuard i none = s.taking codeGuardq cnt := setGuard_self hg
      simp only [hc, if_true, clearTrip, same, guardWords, complete_taking]
    · simp only [hc, guardWords]
      rfl
  · simp [unguardCommand, hi, hg, guardGroupOpen, hw, ho, refuseCommand_taking]
  · simp only [unguardCommand, opr_taking, hi, guard_taking, hg, guardGroupOpen, window?_taking, hw,
      groups_taking, ho, if_true]
    rfl
  · simp only [guardqCommand, opr_taking, hi, guard_taking, hg, guardWords_set, clearTrip]
    split <;> rfl

end Sys2Proof
end

section
/-! The lock commands and PORT, ENGSET, and the triggers with the publishes that they start. -/

namespace Sys2Proof.Machine

variable {s t : State} {code cnt : BitVec 8} {h : Handle} {w : Window} {p : Paired}

/-! ### BREAK, the hold timer and PORT (R38, R124 to R128) -/

theorem breakCommand_one (hf : field (opr s 0) 0 2 = 1) : breakCommand s = breakOneForm s := by
  simp [breakCommand, hf]

theorem breakCommand_limit (hf : field (opr s 0) 0 2 = 2) : breakCommand s = setLimitForm s := by
  simp [breakCommand, hf]

theorem breakCommand_badForm (h1 : field (opr s 0) 0 2 ≠ 1) (h2 : field (opr s 0) 0 2 ≠ 2) :
    breakCommand s = refuseCommand .badOperand s := by
  rw [breakCommand, if_neg h1, if_neg h2]

theorem breakOneForm_badPort (hp : portOf (field (opr s 1) 0 8) = none) :
    breakOneForm s = refuseCommand .badOperand s := by
  simp [breakOneForm, hp]

theorem breakOneForm_unlocked {q : PortId} (hp : portOf (field (opr s 1) 0 8) = some q) (hl : s.lock q = none) :
    breakOneForm s = complete .done [] s := by
  simp [breakOneForm, hp, hl]

theorem breakOneForm_locked {q : PortId} {l : Lock} (hp : portOf (field (opr s 1) 0 8) = some q)
    (hl : s.lock q = some l) :
    breakOneForm s = complete .done [flagAt 0 true, at_ 0 (handleField l.window)] (breakLock q s) := by
  simp [breakOneForm, hp, hl]

theorem exec_breakOne (ha : s.accepts) :
    exec (.breakOne cnt) s = .next (breakCommand (s.taking codeBreak cnt)) := takeCommand_taking ha

theorem exec_setLimit (ha : s.accepts) :
    exec (.setLimit cnt) s = .next (breakCommand (s.taking codeBreak cnt)) := takeCommand_taking ha

theorem portStateOf_eq_none {c : BitVec 2} (hc : c = 0 ∨ c = 3) : portStateOf c = none := by
  rcases hc with rfl | rfl <;> rfl

theorem portCommand_refused
    (hn : portOf (field (opr s 0) 0 8) = none ∨ portStateOf (field (opr s 1) 0 2) = none) :
    portCommand s = refuseCommand .badOperand s := by
  unfold portCommand
  rcases hn with hn | hn
  · rw [hn]
  · rw [hn]
    cases portOf (field (opr s 0) 0 8) <;> rfl

theorem portCommand_sets {q : PortId} {st : PortState} (hq : portOf (field (opr s 0) 0 8) = some q)
    (hs : portStateOf (field (opr s 1) 0 2) = some st) :
    portCommand s = complete .done [] (setPortState q st s) := by
  simp [portCommand, hq, hs]

/-! ### ENGSET (R88, R89) -/

theorem engsetOperands_eq_some {c : EngineConfig} :
    engsetOperands s = some c ↔
      ∃ m, modeOf (field (opr s 0) 0 2) = some m ∧
        (1 ≤ (field (opr s 0) 4 4).toNat ∧ (field (opr s 0) 4 4).toNat ≤ 8 ∧
          1 ≤ (field (opr s 1) 0 16).toNat ∧ (field (opr s 2) 0 14).toNat ≤ 8191 ∧
          1 ≤ (field (opr s 2) 16 14).toNat ∧ (field (opr s 2) 16 14).toNat ≤ 8192 ∧
          (field (opr s 2) 0 14).toNat < (field (opr s 2) 16 14).toNat) ∧
        c = { mode := m, step := (field (opr s 0) 4 4).toNat, autoUrgent := bitAt (opr s 0) 8,
              paceEnable := bitAt (opr s 0) 9, pacePeriod := (field (opr s 1) 0 16).toNat,
              trigREnable := bitAt (opr s 0) 10, trigUEnable := bitAt (opr s 0) 11,
              urgeOn := (field (opr s 2) 0 14).toNat, urgeOff := (field (opr s 2) 16 14).toNat } := by
  simp only [engsetOperands, Option.bind_eq_bind, Option.bind_eq_some_iff]
  constructor
  · rintro ⟨m, hm, hc⟩
    split at hc
    · next hb =>
      simp only [Bool.and_eq_true, decide_eq_true_eq, and_assoc] at hb
      exact ⟨m, hm, hb, (Option.some.inj hc).symm⟩
    · cases hc
  · rintro ⟨m, hm, hb, rfl⟩
    exact ⟨m, hm, if_pos (by simpa only [Bool.and_eq_true, decide_eq_true_eq, and_assoc] using hb)⟩

theorem engsetOperands_eq_none
    (hb : field (opr s 0) 0 2 = 0 ∨ (field (opr s 0) 4 4).toNat = 0 ∨ 8 < (field (opr s 0) 4 4).toNat ∨
      field (opr s 1) 0 16 = 0 ∨ 8191 < (field (opr s 2) 0 14).toNat ∨ field (opr s 2) 16 14 = 0 ∨
      8192 < (field (opr s 2) 16 14).toNat ∨
      (field (opr s 2) 16 14).toNat ≤ (field (opr s 2) 0 14).toNat) : engsetOperands s = none := by
  rw [Option.eq_none_iff_forall_not_mem]
  intro c hc
  obtain ⟨m, hm, ⟨h1, h2, h3, h4, h5, h6, h7⟩, -⟩ := engsetOperands_eq_some.1 hc
  rcases hb with hb | hb | hb | hb | hb | hb | hb | hb
  · rw [hb] at hm
    cases hm
  · omega
  · omega
  · rw [hb] at h3
    exact absurd h3 (by decide)
  · omega
  · rw [hb] at h5
    exact absurd h5 (by decide)
  · omega
  · omega

theorem engsetCommand_busy (hb : s.engine.state ≠ .idle ∨ s.engine.context ≠ none ∨ 0 < s.engine.cursor) :
    engsetCommand s = refuseCommand .engineBusy s := by
  have busy : engsetBusy s.engine = true := by
    rcases hb with hb | hb | hb <;> simp [engsetBusy, hb, Option.isSome_iff_ne_none]
  simp [engsetCommand, busy]

theorem engsetCommand_free (hs : s.engine.state = .idle) (hc : s.engine.context = none)
    (hk : s.engine.cursor = 0) :
    engsetCommand s =
      match engsetOperands s with
      | none => refuseCommand .badOperand s
      | some c =>
        if c.mode = .stepped ∧ c.autoUrgent = true then refuseCommand .badMode s
        else
          complete .done []
            (updateUrgency (modEngine (fun e => { e with config := c, paceTimer := paceAfresh c }) s)) := by
  have free : engsetBusy s.engine = false := by simp [engsetBusy, hs, hc, hk]
  unfold engsetCommand
  rw [free]
  rfl

/-! ### Triggers (R90 to R93, R108) -/

theorem exec_start (ha : s.accepts) :
    exec (.start cnt) s =
      .next (arbitrate (complete (regularTrigger (s.taking codeStart cnt)).2.status []
        (regularTrigger (s.taking codeStart cnt)).1)) :=
  takeCommand_taking (f := fun t => arbitrate (startCommand t)) ha

theorem exec_urgent (ha : s.accepts) :
    exec (.urgent cnt) s =
      .next (arbitrate (complete (urgentTrigger (s.taking codeUrgent cnt)).2.status []
        (urgentTrigger (s.taking codeUrgent cnt)).1)) :=
  takeCommand_taking (f := fun t => arbitrate (urgentCommand t)) ha

theorem exec_trigREdge (hr : s.inReset = none) (he : s.engine.config.trigREnable = true) :
    exec .trigREdge s = .next (arbitrate (regularTrigger s).1) := by
  show whenRunning (fun t => .next (trigR t)) s = _
  rw [whenRunning_running hr, trigR, if_pos he]

theorem exec_trigUEdge (hr : s.inReset = none) (he : s.engine.config.trigUEnable = true) :
    exec .trigUEdge s = .next (arbitrate (urgentTrigger s).1) := by
  show whenRunning (fun t => .next (trigU t)) s = _
  rw [whenRunning_running hr, trigU, if_pos he]

/-- The next period of the pace timer begins at its expiry (R90). -/
def State.paced (s : State) : State :=
  { s with engine := { s.engine with paceTimer := some (s.engine.config.pacePeriod * 100) } }

theorem exec_paceExpiry (hr : s.inReset = none) (hp : s.engine.paceTimer ≠ none) :
    exec .paceExpiry s = .next (arbitrate (regularTrigger s.paced).1) := by
  show whenRunning (fun t => .next (paceExpires t)) s = _
  rw [whenRunning_running hr, paceExpires, if_pos (Option.isSome_iff_ne_none.2 hp)]
  rfl

theorem regularTrigger_dropped
    (hd : s.engine.state = .stopping ∨ s.engine.run ≠ none ∨ s.engine.regularPending = true) :
    regularTrigger s = (raise .triggerLost s, .dropped) := by
  have dropped : regularDropped s.engine = true := by
    rcases hd with hd | hd | hd <;> simp [regularDropped, hd, Option.isSome_iff_ne_none]
  rw [regularTrigger, if_pos dropped]

/-- A regular trigger that finds the engine at other work waits (R92). -/
theorem regularTrigger_pended (hs : s.engine.state = .urgent ∨ s.engine.state = .drain ∨ s.engine.state = .held)
    (hr : s.engine.run = none) (hp : s.engine.regularPending = false) :
    regularTrigger s = (modEngine (fun e => { e with regularPending := true }) s, .pended) := by
  rcases hs with hs | hs | hs <;> simp [regularTrigger, regularDropped, hs, hr, hp]

theorem regularTrigger_begins (q : s.quiet) : regularTrigger s = (boundaryChoice (beginRun s), .begun) := by
  simp [regularTrigger, regularDropped, q.state, q.run, q.regularPending]

theorem urgentTrigger_dropped
    (hd : s.engine.state = .stopping ∨ s.engine.config.autoUrgent = true ∨ s.engine.urgentRequested = true ∨
      s.engine.urgentRun ≠ none) : urgentTrigger s = (raise .triggerLost s, .dropped) := by
  have dropped : urgentDropped s.engine = true := by
    rcases hd with hd | hd | hd | hd <;> simp [urgentDropped, hd, Option.isSome_iff_ne_none]
  rw [urgentTrigger, if_pos dropped]

theorem not_urgentDropped (ha : s.engine.config.autoUrgent = false) (hq : s.engine.urgentRequested = false)
    (hr : s.engine.urgentRun = none) (hs : s.engine.state ≠ .stopping) : urgentDropped s.engine = false := by
  simp [urgentDropped, ha, hq, hr, hs]

theorem urgentTrigger_run (hd : urgentDropped s.engine = false) (hs : s.engine.state = .run) :
    urgentTrigger s =
      (requestSuspend (modEngine (fun e => { e with urgentRequested := true }) s), .pended) := by
  simp [urgentTrigger, hd, hs]

theorem urgentTrigger_drain (hd : urgentDropped s.engine = false) (hs : s.engine.state = .drain) :
    urgentTrigger s = (modEngine (fun e => { e with urgentRequested := true }) s, .pended) := by
  simp [urgentTrigger, hd, hs]

theorem urgentTrigger_idle (hd : urgentDropped s.engine = false) (hs : s.engine.state = .idle) :
    urgentTrigger s =
      (boundaryChoice (modEngine (fun e => { e with urgentRequested := true }) s), .begun) := by
  simp [urgentTrigger, hd, hs]

/-! ### The publish that a trigger starts (R94, R97, R111) -/

theorem choiceStep_regular {r : RegularRun} {v : WorkReport} (hu : s.engine.urgentRun = none)
    (hq : s.engine.urgentRequested = false) (hd : s.engine.drainQueue = []) (hc : s.engine.context = none)
    (hr : s.engine.run = some r) (hv : s.engine.working = some v) (hl : s.engine.regularSeq[r.pos]? = some h) :
    choiceStep s = processRegular h s := by
  simp [choiceStep, hu, hq, hd, hc, hr, hv, hl]

theorem choiceStep_urgent {u : UrgentRun} (hu : s.engine.urgentRun = some u)
    (hl : s.engine.urgentList[u.pos]? = some h) : choiceStep s = processUrgent h s := by
  simp [choiceStep, hu, hl]

theorem processRegular_starts (hp : s.paired? h = some (w, p)) (hl : s.isLocked h = false) :
    processRegular h s = startPublish .regular .run h s := by
  simp [processRegular, hp, hl]

theorem processUrgent_starts (hp : s.paired? h = some (w, p)) (hl : s.isLocked h = false)
    (hc : s.engine.context = none) : processUrgent h s = startPublish .urgent .urgent h s := by
  have same : modEngine (fun e => e.adopt h) s = s := by simp [modEngine, Engine.adopt, hc]
  simp [processUrgent, hp, hl, same]

theorem beginRun_first {l : List Handle} (hm : s.engine.config.mode ≠ .stepped)
    (hl : s.engine.regularSeq = h :: l) : beginRun s = modEngine Engine.beginPass s := by
  have pass : beginPass s = modEngine Engine.beginPass s := by
    simp [beginPass, modEngine, Engine.beginPass, hl]
  unfold beginRun
  cases hd : s.engine.config.mode with
  | single => exact pass
  | continuous => exact pass
  | stepped => exact absurd hd hm

/-- A regular trigger of a quiet engine begins a pass and the publish of its first entry. -/
theorem regularTrigger_starts {l : List Handle} {n : Nat} (q : s.quiet) (hu : s.pubUnit = .ready)
    (hm : s.engine.config.mode ≠ .stepped) (hl : s.engine.regularSeq = h :: l)
    (hp : s.paired? h = some (w, p)) (hk : s.isLocked h = false) (hw : p.work = none)
    (hn : nextCopyLine w p.take = some n) :
    regularTrigger s =
      ({ s.publishing h w p n with
          engine := { s.engine with
            state := .run, heldFrom := none, passCounter := bump s.engine.passCounter,
            working := some { number := bump s.engine.passCounter, published := 0, skipped := 0, vacant := 0,
                              copied := false },
            run := some { pos := 0, remaining := none }, purpose := some .regular } }, .begun) := by
  rw [regularTrigger_begins q, beginRun_first hm hl]
  generalize ht : modEngine Engine.beginPass s = t
  have reads : choiceStep t =
      ({ t.publishing h w p n with
          engine := { t.engine with state := .run, heldFrom := none, purpose := some .regular } }, false) := by
    subst ht
    rw [choiceStep_regular (s := modEngine Engine.beginPass s) (h := h) (r := { pos := 0, remaining := none })
        q.urgentRun q.urgentRequested q.drainQueue q.context rfl rfl
        (by simp [modEngine, Engine.beginPass, hl]),
      processRegular_starts (s := modEngine Engine.beginPass s) hp hk]
    exact startPublish_reads (s := modEngine Engine.beginPass s) .regular .run hp hw hn
  rw [boundaryChoice_ends (by rw [← ht]; exact hu) (by rw [reads]), reads]
  subst ht
  rfl

/-- An urgent trigger of a quiet engine begins an urgent run and the publish of its first entry. -/
theorem urgentTrigger_starts {l : List Handle} {n : Nat} (q : s.quiet) (hu : s.pubUnit = .ready)
    (ha : s.engine.config.autoUrgent = false) (hl : s.engine.urgentList = h :: l)
    (hp : s.paired? h = some (w, p)) (hk : s.isLocked h = false) (hw : p.work = none)
    (hn : nextCopyLine w p.take = some n) :
    urgentTrigger s =
      ({ s.publishing h w p n with
          engine := { s.engine with
            state := .urgent, heldFrom := none, urgentCounter := bump s.engine.urgentCounter,
            urgentRun := some
              { pos := 0,
                work := { number := bump s.engine.urgentCounter, published := 0, skipped := 0, vacant := 0,
                          copied := false } },
            purpose := some .urgent } }, .begun) := by
  rw [urgentTrigger_idle (not_urgentDropped ha q.urgentRequested q.urgentRun (by simp [q.state])) q.state]
  generalize ht : modEngine (fun e => { e with urgentRequested := true }) s = t
  let b : State := modEngine (fun e =>
    { e with
      urgentRequested := false,
      urgentCounter := bump e.urgentCounter,
      urgentRun := some { pos := 0, work := freshWork (bump e.urgentCounter) } }) t
  have begins : choiceStep t = (b, true) := by
    subst ht
    simp [choiceStep, modEngine, q.urgentRun, beginUrgent, hl, b]
  have reads : choiceStep b =
      ({ b.publishing h w p n with
          engine := { b.engine with state := .urgent, heldFrom := none, purpose := some .urgent } }, false) := by
    subst ht
    rw [choiceStep_urgent (h := h) rfl (by simp [b, modEngine, hl]),
      processUrgent_starts (s := b) hp hk q.context]
    exact startPublish_reads (s := b) .urgent .urgent hp hw hn
  have ready : t.pubUnit = .ready := by rw [← ht]; exact hu
  have same : ({ s.engine with urgentRequested := false } : Engine) = s.engine := by rw [← q.urgentRequested]
  simp only [boundaryChoice, ready, if_true]
  rw [choiceLoop_again (by rw [begins]), begins, choiceLoop_ends (by rw [reads]), reads]
  subst ht
  conv_rhs => rw [← same]
  rfl

end Sys2Proof.Machine

namespace Sys2Proof

open Machine

/-- Settles O27: the engine, the operand fields and the mode decide, in that order. -/
theorem engsetChecksInOrderAndSets : Obligations.EngsetChecksInOrderAndSets := by
  intro cnt s ha
  have row : exec (.engset cnt) s = .next (engsetCommand (s.taking codeEngset cnt)) := takeCommand_taking ha
  rw [row]
  refine ⟨fun hb => ?_, fun hs hc hk => ⟨fun hb => ?_, fun m hm h1 h2 h3 h4 h6 h7 => ?_⟩⟩
  · rw [engsetCommand_busy (s := s.taking codeEngset cnt) hb, refuseCommand_taking]
  · rw [engsetCommand_free (s := s.taking codeEngset cnt) hs hc hk, engsetOperands_taking,
      engsetOperands_eq_none hb]
    rfl
  · have ho := engsetOperands_eq_some.2 ⟨m, hm, ⟨h1, h2, h3, h4, by omega, h6, h7⟩, rfl⟩
    rw [engsetCommand_free (s := s.taking codeEngset cnt) hs hc hk, engsetOperands_taking, ho]
    refine ⟨fun hst hau => ?_, fun hn => ?_⟩
    · simp only [hst, hau, and_self, if_true]
      rfl
    · have good : ¬(m = .stepped ∧ bitAt (opr s 0) 8 = true) := by
        rcases hn with hn | hn <;> simp [hn]
      simp only [if_neg good]
      rfl

/-- Settles O28: the trigger's judgement, for the command, the edge and the expiry. -/
theorem regularTriggersAreJudged : Obligations.RegularTriggersAreJudged := by
  refine ⟨fun s hd => ⟨fun cnt ha => ?_, fun hr he => ?_, fun hr hp => ?_⟩,
    fun s hs hn hq => ⟨fun cnt ha => ?_, fun hr he => ?_, fun hr hp => ?_⟩, fun s hr => ⟨fun he => ?_, fun hp => ?_⟩⟩
  · rw [exec_start ha, regularTrigger_dropped (s := s.taking codeStart cnt) hd]
    rfl
  · rw [exec_trigREdge hr he, regularTrigger_dropped hd]
    rfl
  · rw [exec_paceExpiry hr hp, regularTrigger_dropped (s := s.paced) hd]
    rfl
  · rw [exec_start ha, regularTrigger_pended (s := s.taking codeStart cnt) hs hn hq]
    rfl
  · rw [exec_trigREdge hr he, regularTrigger_pended hs hn hq]
    rfl
  · rw [exec_paceExpiry hr hp, regularTrigger_pended (s := s.paced) hs hn hq]
    rfl
  · show whenRunning (fun t => .next (trigR t)) s = _
    simp [whenRunning_running hr, trigR, he]
  · show whenRunning (fun t => .next (paceExpires t)) s = _
    simp [whenRunning_running hr, paceExpires, hp]

/-- Settles O29: the quiet engine's choice comes to the first entry. -/
theorem triggerStartsAPublish : Obligations.TriggerStartsAPublish := by
  refine ⟨fun s h l w p n q hu hm hl hp hk hw hn => ⟨fun cnt ha => ?_, fun hr he => ?_, fun hr hpt => ?_⟩,
    fun s h l w p n q hu hau hl hp hk hw hn => ⟨fun cnt ha => ?_, fun hr he => ?_⟩⟩
  · rw [exec_start ha, regularTrigger_starts (s := s.taking codeStart cnt) (q.of_engine rfl) hu hm hl hp hk hw hn]
    rfl
  · rw [exec_trigREdge hr he, regularTrigger_starts q hu hm hl hp hk hw hn]
  · have quiet : s.paced.quiet :=
      ⟨q.state, q.run, q.regularPending, q.urgentRun, q.urgentRequested, q.drainQueue, q.context⟩
    rw [exec_paceExpiry hr hpt, regularTrigger_starts (s := s.paced) quiet hu hm hl hp hk hw hn]
    rfl
  · rw [exec_urgent ha,
      urgentTrigger_starts (s := s.taking codeUrgent cnt) (q.of_engine rfl) hu hau hl hp hk hw hn]
    rfl
  · rw [exec_trigUEdge hr he, urgentTrigger_starts q hu hau hl hp hk hw hn]

/-- Settles O30: the trigger's judgement, for the command and the edge. -/
theorem urgentTriggersAreJudged : Obligations.UrgentTriggersAreJudged := by
  refine ⟨fun s hd => ⟨fun cnt ha => ?_, fun hr he => ?_⟩, fun s hau hq hn =>
    ⟨fun t hs ht => ?_, fun hs => ⟨fun cnt ha => ?_, fun hr he => ?_⟩⟩, fun s hr he => ?_⟩
  · rw [exec_urgent ha, urgentTrigger_dropped (s := s.taking codeUrgent cnt) hd]
    rfl
  · rw [exec_trigUEdge hr he, urgentTrigger_dropped hd]
    rfl
  · have hd := not_urgentDropped hau hq hn (by simp [hs])
    have suspends : ∀ x : State, x.pubUnit = s.pubUnit → requestSuspend x = { x with pubUnit := t } := by
      intro x hx
      rcases ht with ⟨r, n, hu, rfl⟩ | ⟨r, n, bs, hu, rfl⟩ <;> simp only [requestSuspend, hx, hu]
    refine ⟨fun cnt ha => ?_, fun hr he => ?_⟩
    · rw [exec_urgent ha, urgentTrigger_run (s := s.taking codeUrgent cnt) hd hs,
        suspends (modEngine (fun e => { e with urgentRequested := true }) (s.taking codeUrgent cnt)) rfl]
      rfl
    · rw [exec_trigUEdge hr he, urgentTrigger_run hd hs,
        suspends (modEngine (fun e => { e with urgentRequested := true }) s) rfl]
      rfl
  · have hd := not_urgentDropped hau hq hn (by simp [hs])
    rw [exec_urgent ha, urgentTrigger_drain (s := s.taking codeUrgent cnt) hd hs]
    rfl
  · have hd := not_urgentDropped hau hq hn (by simp [hs])
    rw [exec_trigUEdge hr he, urgentTrigger_drain hd hs]
    rfl
  · show whenRunning (fun t => .next (trigU t)) s = _
    simp [whenRunning_running hr, trigU, he]

/-- Settles O32: the form, the port and its lock decide; a timer breaks its lock only while it runs. -/
theorem breaksAndExpiriesEndLocks : Obligations.BreaksAndExpiriesEndLocks := by
  refine ⟨fun cnt s ha => ⟨fun hb => ?_, fun q hf hq => ⟨fun hl => ?_, fun l hl => ?_⟩⟩,
    fun cnt s ha hf => ⟨fun hn => ?_, fun hn => ?_⟩, fun q s hr => ⟨fun l r hl ht => ?_, fun hl => ?_⟩⟩
  · rw [exec_breakOne ha, ← refuseCommand_taking]
    rcases hb with hb | hb | ⟨hf, hn⟩
    · rw [breakCommand_badForm] <;> simp [hb]
    · rw [breakCommand_badForm] <;> simp [hb]
    · rw [breakCommand_one (s := s.taking codeBreak cnt) hf,
        breakOneForm_badPort (s := s.taking codeBreak cnt) (portOf_eq_none hn)]
  · rw [exec_breakOne ha, breakCommand_one (s := s.taking codeBreak cnt) hf,
      breakOneForm_unlocked (s := s.taking codeBreak cnt) hq hl, complete_taking]
  · rw [exec_breakOne ha, breakCommand_one (s := s.taking codeBreak cnt) hf,
      breakOneForm_locked (s := s.taking codeBreak cnt) hq hl, breakLock_eq (s := s.taking codeBreak cnt) hl,
      at_zero]
    rfl
  · rw [exec_setLimit ha, breakCommand_limit (s := s.taking codeBreak cnt) hf, setLimitForm, opr_taking,
      if_pos hn, refuseCommand_taking]
  · rw [exec_setLimit ha, breakCommand_limit (s := s.taking codeBreak cnt) hf, setLimitForm, opr_taking,
      if_neg (by omega), at_zero]
    rfl
  · show whenRunning (fun t => .next (holdExpires q t)) s = _
    rw [whenRunning_running hr, holdExpires, hl, ← breakLock_eq hl]
    simp [timerRuns, ht]
  · show whenRunning (fun t => .next (holdExpires q t)) s = _
    rw [whenRunning_running hr, holdExpires]
    rcases hl with hl | ⟨l, hl, ht | ⟨r, e, ht⟩⟩
    · simp [timerRuns, hl]
    · simp [timerRuns, hl, ht]
    · simp [timerRuns, hl, ht]

/-- Settles O33: the port, its new state and its lock decide. -/
theorem portSetsItsState : Obligations.PortSetsItsState := by
  intro cnt s ha
  have row : exec (.port cnt) s = .next (portCommand (s.taking codePort cnt)) := takeCommand_taking ha
  rw [row]
  refine ⟨fun hb => ?_, fun q hq => ⟨fun hf => ?_, fun hf hl => ?_, fun l hf hl => ?_⟩⟩
  · have refused : portOf (field (opr s 0) 0 8) = none ∨ portStateOf (field (opr s 1) 0 2) = none :=
      hb.imp portOf_eq_none portStateOf_eq_none
    rw [portCommand_refused (s := s.taking codePort cnt) refused, refuseCommand_taking]
  · rw [portCommand_sets (s := s.taking codePort cnt) (st := .active) hq (by rw [opr_taking, hf]; rfl)]
    rfl
  · rw [portCommand_sets (s := s.taking codePort cnt) (st := .standby) hq (by rw [opr_taking, hf]; rfl)]
    have unlocked : ((s.taking codePort cnt).setPort q
        { (s.taking codePort cnt).port q with state := .standby }).lock q = none := hl
    simp only [setPortState, breakLock, unlocked]
    rfl
  · rw [portCommand_sets (s := s.taking codePort cnt) (st := .standby) hq (by rw [opr_taking, hf]; rfl)]
    simp only [setPortState]
    rw [breakLock_eq (s := (s.taking codePort cnt).setPort q
        { (s.taking codePort cnt).port q with state := .standby }) hl]
    rfl

end Sys2Proof
end

section
/-! An access from its taking to its grant: the checks before the arbiter, the wait or the grant, and the lock
checks at the grant. -/

namespace Sys2Proof.Machine

variable {s t : State} {p q : PortId} {a : Access} {c : AccessClass} {z : AccessSize} {h : Handle} {w : Window}

/-! ### Addresses, rights and lookups -/

theorem alignAddress_toNat (a : Word) (z : AccessSize) :
    (alignAddress a z).toNat = a.toNat / sizeBytes z * sizeBytes z := by
  have le : a.toNat / sizeBytes z * sizeBytes z ≤ a.toNat := Nat.div_mul_le_self _ _
  have lt := a.isLt
  simp only [alignAddress, BitVec.toNat_ofNat]
  exact Nat.mod_eq_of_lt (by omega)

theorem hasRights_iff {p : PortId} {c : AccessClass} {w : Window} :
    hasRights p c w = true ↔
      (c = .read ∨ c = .fetch ∨ c = .lockRead → w.readMask.getLsbD p.val = true) ∧
        (c = .write ∨ c = .lockRead ∨ c = .releaseWrite → w.writeMask.getLsbD p.val = true) := by
  cases c <;> simp [hasRights, needsRead, needsWrite, inMask]

theorem covers_iff {w : Window} {x : Nat} :
    w.covers x = true ↔ w.base.toNat ≤ x ∧ x < w.base.toNat + w.pages * 4096 := by
  rw [Window.covers, Bool.and_eq_true, decide_eq_true_iff, decide_eq_true_iff]
  rfl

theorem rangesMeet_of_covers {w v : Window} {x : Nat} (hw : w.covers x = true) (hv : v.covers x = true) :
    rangesMeet w v = true := by
  obtain ⟨h1, h2⟩ := covers_iff.1 hw
  obtain ⟨h3, h4⟩ := covers_iff.1 hv
  have hx : w.base.toNat < v.base.toNat + v.size := lt_of_le_of_lt h1 h4
  have hy : v.base.toNat < w.base.toNat + w.size := lt_of_le_of_lt h3 h2
  simp [rangesMeet, sharesByte, hx, hy]

theorem windowAt_eq_some {x : Nat} {i : SlotId} (hw : s.windowAt x = some (i, w)) :
    (s.slot i).win = some w ∧ w.covers x = true := by
  unfold State.windowAt at hw
  cases hl : s.lookup x with
  | none => simp [hl] at hw
  | some j =>
    have found := List.find?_some hl
    cases hv : (s.slot j).win with
    | none => simp [hv] at found
    | some v =>
      simp only [hl, hv, Option.some.injEq, Prod.mk.injEq] at hw
      obtain ⟨rfl, rfl⟩ := hw
      simp only [hv] at found
      exact ⟨hv, found⟩

/-- Ranges that share no byte leave an address one window (R12, R15). -/
theorem windowAt_of_covers {x : Nat} {i : SlotId} (hd : RangesDisjoint s) (hw : (s.slot i).win = some w)
    (hx : w.covers x = true) : s.windowAt x = some (i, w) := by
  have found : s.lookup x = some i := by
    refine find?_finRange_eq_some (by simp [hw, hx]) fun j hj => ?_
    cases hv : (s.slot j).win with
    | none => rfl
    | some v =>
      have apart := hd.2 j i v w hj.ne hv hw
      rw [Bool.eq_false_iff]
      intro hc
      rw [rangesMeet_of_covers hc hx] at apart
      cases apart
  simp [State.windowAt, found, hw]

theorem window?_handleAt {i : SlotId} (hw : (s.slot i).win = some w) : s.window? (s.handleAt i) = some w :=
  window?_eq_some.2 ⟨rfl, hw⟩

/-! ### Checks 1 to 5 (R25 to R28) -/

theorem exec_requester {d : BitVec 64} {x : Word} (hr : s.inReset = none) (ha : (s.port p).access = none) :
    exec (.requesterAccess p c z x d) s = .next (takeAccess p c z x d s) := by
  show whenRunning (fun t => if (t.port p).access.isSome then .next t else .next (takeAccess p c z x d t)) s = _
  rw [whenRunning_running hr, ha]
  rfl

theorem takeAccess_standby (x : Word) (d : BitVec 64) (hs : (s.port p).state = .standby) :
    takeAccess p c z x d s = s.answeredAt p c (alignAddress x z) .portOff none (zeroData c z) := by
  rw [takeAccess, if_pos hs]
  exact respond_accessFault _ _ _ _ _ _ _

theorem takeAccess_miss (x : Word) (d : BitVec 64) (hs : (s.port p).state = .active)
    (hw : s.windowAt (alignAddress x z).toNat = none) :
    takeAccess p c z x d s = s.answeredAt p c (alignAddress x z) .miss none (zeroData c z) := by
  simp only [takeAccess, hs, hw, reduceCtorEq, if_false]
  exact respond_accessFault _ _ _ _ _ _ _

/-- Where a check refuses, the access is answered with its code. -/
theorem takeAccess_refused (x : Word) (d : BitVec 64) {i : SlotId} {r : Resp} (hs : (s.port p).state = .active)
    (hw : s.windowAt (alignAddress x z).toNat = some (i, w)) (hc : lookupCheck p c w s = some r)
    (hr : faultWindow r (some i) = some i) :
    takeAccess p c z x d s = s.answeredAt p c (alignAddress x z) r (some i) (zeroData c z) := by
  simp only [takeAccess, hs, hw, hc, reduceCtorEq, if_false, refuse_eq]
  show s.answeredAt p c (alignAddress x z) r (faultWindow r (some i)) (zeroData c z) = _
  rw [hr]

theorem takeAccess_passes (x : Word) (d : BitVec 64) {i : SlotId} (hs : (s.port p).state = .active)
    (hw : s.windowAt (alignAddress x z).toNat = some (i, w)) (hc : lookupCheck p c w s = none) :
    takeAccess p c z x d s =
      arbitrate (s.accessAt p (newAccess c z (alignAddress x z) d (s.handleAt i) w) .waiting) := by
  simp only [takeAccess, hs, hw, hc, reduceCtorEq, if_false]
  rfl

theorem lookupCheck_denied (hr : hasRights p c w = false) : lookupCheck p c w s = some .denied := by
  simp [lookupCheck, hr]

theorem lookupCheck_retiring (hr : hasRights p c w = true) (hd : w.draining = true)
    (hn : needsWrite c = true) : lookupCheck p c w s = some .retiring := by
  simp [lookupCheck, hr, hd, hn]

theorem lookupCheck_unpublished (hr : hasRights p c w = true) (hd : ¬(w.draining = true ∧ needsWrite c = true))
    (hu : unpublished s w = true) : lookupCheck p c w s = some .unpublished := by
  simp only [← Bool.and_eq_true] at hd
  simp only [lookupCheck, hr, Bool.not_true, Bool.false_eq_true, if_false, if_neg hd, hu, if_true]

theorem lookupCheck_passes (hr : hasRights p c w = true) (hd : ¬(w.draining = true ∧ needsWrite c = true))
    (hu : unpublished s w = false) : lookupCheck p c w s = none := by
  simp only [← Bool.and_eq_true] at hd
  simp only [lookupCheck, hr, Bool.not_true, Bool.false_eq_true, if_false, if_neg hd, hu]

/-! ### The store address (R14, R77) -/

theorem storeAddress_live {l : Nat} (hl : a.record.live? = some l) : storeAddress s a = some (l + a.offset) := by
  unfold Window.live? at hl
  unfold storeAddress
  cases hb : a.record.body <;> simp_all

theorem storeAddress_gone {src : Handle} (hb : a.record.body = .view src) (hs : s.paired? src = none) :
    storeAddress s a = none := by
  simp [storeAddress, hb, hs]

theorem storeAddress_view {src : Handle} {v : Window} {x : Paired} (hb : a.record.body = .view src)
    (hs : s.paired? src = some (v, x)) : storeAddress s a = some (x.bankOffset x.current + a.offset) := by
  simp [storeAddress, hb, hs]

/-! ### A grant that the checks let pass (R29, R30) -/

theorem setStage_accessAt (p : PortId) (a : Access) (st st' : Stage) (s : State) :
    setStage p a st' (s.accessAt p a st) = s.accessAt p a st' := by
  simp [setStage, State.accessAt, State.setPort, State.port]

theorem beginStore_accessAt (p : PortId) (a : Access) (st : Stage) (s : State) :
    beginStore p a (s.accessAt p a st) = s.accessAt p a (.storing (storeAddress s a)) :=
  setStage_accessAt p a st _ s

/-- A read that check 6 lets pass goes to the store. -/
theorem grantAccess_read (hc : a.cls = .read ∨ a.cls = .fetch) : grantAccess p a s = beginStore p a s := by
  rcases hc with hc | hc <;> simp [grantAccess, lockCheck, hc]

theorem grantAccess_lockRead (hc : a.cls = .lockRead) (hl : lockCheck p a s = none) :
    grantAccess p a s = beginStore p a (takeLock p a.handle s) := by
  simp [grantAccess, hl, hc]

theorem grantAccess_write (hc : a.cls = .write) (hl : lockCheck p a s = none) :
    grantAccess p a s = guardStage p a s := by
  simp [grantAccess, hl, hc]

theorem grantAccess_release (hc : a.cls = .releaseWrite) (hl : lockCheck p a s = none) :
    grantAccess p a s = guardStage p a (beginRelease p s) := by
  simp [grantAccess, hl, hc]

/-- A refusal at the grant answers the access and gives the store port back. -/
theorem grantAccess_refused {r : Resp} (hl : lockCheck p a s = some r) :
    grantAccess p a s =
      { s.answeredAt p a.cls a.addr r (if r = .miss ∨ r = .portOff then none else some a.handle.index)
          (zeroData a.cls a.size) with grant := none } := by
  have refused : grantAccess p a s = giveUp (refuse p a r s) := by
    unfold grantAccess
    rw [hl]
  rw [refused, refuse_eq]
  rfl

theorem guardStage_unguarded (hg : takingPart p a s = []) : guardStage p a s = beginStore p a s := by
  simp [guardStage, hg]

/-! ### The lock checks (R29) -/

theorem lockHolder_holds (hl : s.lockHolder h = some q) : s.holds q h = true := by
  simpa using List.find?_some hl

theorem lockHolder_eq_none (hl : s.lockHolder h = none) (q : PortId) : s.holds q h = false := by
  simpa using List.find?_eq_none.1 hl q (List.mem_finRange q)

theorem otherHolds_of_none (hn : ∀ q, q ≠ p → s.holds q h = false) : otherHolds p h s = false := by
  unfold otherHolds
  cases hl : s.lockHolder h with
  | none => rfl
  | some q =>
    by_contra hq
    have other : q ≠ p := by simpa using hq
    exact absurd (lockHolder_holds hl) (by simp [hn q other])

theorem lockCheck_lockRead (hc : a.cls = .lockRead) (hw : s.window? a.handle = some w) (hk : w.kind ≠ .view)
    (hd : w.draining = false) (hp : (s.port p).state = .active) (ho : otherHolds p a.handle s = false) :
    lockCheck p a s = if s.lock p = none then none else some .lockHeld := by
  cases hl : s.lock p <;> simp [lockCheck, hc, hw, hk, hd, hp, ho, hl]

theorem lockCheck_write (hc : a.cls = .write) (ho : otherHolds p a.handle s = false) :
    lockCheck p a s = none := by
  simp [lockCheck, hc, ho]

theorem lockCheck_release (hc : a.cls = .releaseWrite) (hh : s.holds p a.handle = true) :
    lockCheck p a s = none := by
  simp [lockCheck, hc, hh]

theorem beginRelease_eq {l : Lock} (hl : s.lock p = some l) :
    beginRelease p s =
      s.setLock p (some { l with phase := .releasing, timer := l.timer.map HoldTimer.stop }) := by
  simp [beginRelease, hl]

/-- The lock table's law: one holder for each window. -/
theorem holds_unique (hs : LocksSound s) (hp : s.holds p h = true) (hq : s.holds q h = true) : p = q := by
  obtain ⟨l, hl, hlw⟩ := holds_iff.1 hp
  obtain ⟨m, hm, hmw⟩ := holds_iff.1 hq
  exact hs.2 p q l m hl hm (hlw.trans hmw.symm)

theorem otherHolds_of_holds (hs : LocksSound s) (hq : q ≠ p) (hh : s.holds q h = true) :
    otherHolds p h s = true := by
  unfold otherHolds
  cases hl : s.lockHolder h with
  | none =>
    rw [lockHolder_eq_none hl q] at hh
    cases hh
  | some x =>
    have same := holds_unique hs (lockHolder_holds hl) hh
    simpa [same] using hq

/-! ### A grant decision with one contender (R41) -/

theorem pick_only (hu : s.unitWaiting = false) (hp : s.waitingAccess p = some a)
    (only : ∀ q, q ≠ p → s.waitingAccess q = none) : pick s = some (.port p) := by
  have next : nextPort s = some p := by
    cases hn : nextPort s with
    | none =>
      rw [nextPort_none hn p] at hp
      cases hp
    | some q =>
      have waits := nextPort_some hn
      by_contra hq
      rw [only q (fun e => hq (by rw [e]))] at waits
      cases waits
  simp [pick, hu, next]

/-- A contender that keeps the store port at its grant ends the decision. -/
theorem arbitrate_keeps (hg : s.grant = none) (hp : pick s = some (.port p)) (hw : s.waitingAccess p = some a)
    (hk : (grantAccess p a { s with grant := some (.port p), pointer := p }).grant ≠ none) :
    arbitrate s = grantAccess p a { s with grant := some (.port p), pointer := p } := by
  rw [arbitrate, if_pos hg, grantLoop, hp]
  simp only [hw, if_neg hk]

/-- The access at the arbiter, its port having been chosen. -/
def State.offered (s : State) (p : PortId) (a : Access) : State :=
  { s with grant := some (.port p), pointer := p }.accessAt p a .waiting

/-- The access with its store access in flight. -/
def State.onStore (s : State) (p : PortId) (a : Access) : State :=
  { s.accessAt p a (.storing (storeAddress s a)) with grant := some (.port p), pointer := p }

theorem state_offered (s : State) (p : PortId) (a : Access) :
    ((s.offered p a).port p).state = (s.port p).state := by
  simp [State.offered, State.accessAt, State.port]

theorem beginStore_offered (p : PortId) (a : Access) (s : State) :
    beginStore p a (s.offered p a) = s.onStore p a :=
  beginStore_accessAt p a .waiting { s with grant := some (.port p), pointer := p }

theorem takeLock_offered (p : PortId) (a : Access) (h : Handle) (s : State) :
    takeLock p h (s.offered p a) = (takeLock p h s).offered p a := rfl

theorem setLock_offered (p : PortId) (a : Access) (l : Option Lock) (s : State) :
    (s.offered p a).setLock p l = (s.setLock p l).offered p a := rfl

/-- An access that alone waits, and goes to the store at its grant, does so as it is placed. -/
theorem arbitrate_offered (hg : s.grant = none) (hn : s.nothingWaits)
    (ht : grantAccess p a (s.offered p a) = t.onStore p a) :
    arbitrate (s.accessAt p a .waiting) = t.onStore p a := by
  have waits : (s.accessAt p a .waiting).waitingAccess p = some a := by
    simp [State.waitingAccess, State.accessAt, State.port]
  have only : ∀ q, q ≠ p → (s.accessAt p a .waiting).waitingAccess q = none := by
    intro q hq
    rw [← hn.1 q, waitingAccess_congr]
    have hne : p.val ≠ q.val := fun e => hq (Fin.ext e.symm)
    simp [State.accessAt, State.port, hne]
  have keeps : (grantAccess p a (s.offered p a)).grant ≠ none := by simp [ht, State.onStore]
  exact (arbitrate_keeps (s := s.accessAt p a .waiting) hg (pick_only hn.2 waits only) waits keeps).trans ht

end Sys2Proof.Machine

namespace Sys2Proof

open Machine

/-- Settles O34: the checks in order, each with its answer. -/
theorem accessRefusedBeforeTheArbiter : Obligations.AccessRefusedBeforeTheArbiter := by
  refine ⟨fun a => ⟨?_, alignAddress_toNat a _, alignAddress_toNat a _, alignAddress_toNat a _⟩,
    fun p c w => ⟨hasRights_iff, ?_, ?_⟩, fun p c z a d s hr hf => ?_⟩
  · exact BitVec.eq_of_toNat_eq (by rw [alignAddress_toNat]; simp [sizeBytes])
  · cases c <;> simp [needsWrite]
  · cases c <;> simp [classReads]
  rw [exec_requester hr hf]
  refine ⟨fun hs => by rw [takeAccess_standby a d hs], fun hs => ⟨fun hn => ?_, fun i w hw => ⟨fun hd => ?_,
    fun hd => ⟨fun hdr hnw => ?_, fun hdr src v x hb hp hg => ?_⟩⟩⟩⟩
  · rw [takeAccess_miss a d hs (windowAt_eq_none hn)]
  · rw [takeAccess_refused a d hs hw (lookupCheck_denied hd) rfl]
  · rw [takeAccess_refused a d hs hw (lookupCheck_retiring hd hdr hnw) rfl]
  · have never : unpublished s w = true := by simp [unpublished, hb, hp, hg]
    rw [takeAccess_refused a d hs hw (lookupCheck_unpublished hd hdr never) rfl]

/-- Settles O35: the lookup, the store address, and the grant by class. -/
theorem accessWaitsOrIsGranted : Obligations.AccessWaitsOrIsGranted := by
  refine ⟨fun s a i w => ⟨rfl, fun hw => ?_, fun hd hw h1 h2 => ?_⟩, fun c z a d h w => ?_,
    fun s x => ⟨fun l hb => ?_, fun l y hb => ?_, fun q hb => ?_, fun src hb => ⟨fun hn => ?_, fun v q hq => ?_⟩⟩,
    fun p c z a d s i w hr hf hs hw hc hd hu => ?_⟩
  · obtain ⟨hs, hc⟩ := windowAt_eq_some hw
    exact ⟨hs, covers_iff.1 hc⟩
  · exact windowAt_of_covers hd hw (covers_iff.2 ⟨h1, h2⟩)
  · unfold newAccess LineSize.bytes
    cases w.lineSize <;> rfl
  · exact storeAddress_live (by simp [Window.live?, hb])
  · exact storeAddress_live (by simp [Window.live?, hb])
  · exact storeAddress_live (by simp [Window.live?, hb])
  · exact storeAddress_gone hb hn
  · rw [storeAddress_view hb hq]
    cases q.current <;> rfl
  · intro acc go
    have hslot := (windowAt_eq_some hw).1
    have hwin : s.window? acc.handle = some w := window?_handleAt hslot
    rw [exec_requester hr hf, takeAccess_passes a d hs hw (lookupCheck_passes hc hd hu)]
    refine ⟨fun hg => by rw [arbitrate_held]; exact hg, fun hg hn => ⟨fun hcl => ?_, fun hcl hk hl hlp => ?_,
      fun hcl ho ht => ?_, fun l hcl hl hlw ht => ?_⟩⟩
    · exact congrArg _ (arbitrate_offered hg hn (by rw [grantAccess_read hcl, beginStore_offered]))
    · have hd : w.draining = false := by simpa [hcl, needsWrite] using hd
      have ho : otherHolds p (s.handleAt i) s = false :=
        otherHolds_of_none fun q _ => isLocked_eq_false.1 hl q
      have check : lockCheck p acc (s.offered p acc) = none := by
        rw [lockCheck_lockRead (s := s.offered p acc) hcl hwin hk hd ((state_offered s p acc).trans hs) ho]
        exact if_pos hlp
      exact congrArg _ (arbitrate_offered (t := takeLock p (s.handleAt i) s) hg hn
        (by rw [grantAccess_lockRead hcl check, takeLock_offered, beginStore_offered]; rfl))
    · have check : lockCheck p acc (s.offered p acc) = none := lockCheck_write hcl ho
      exact congrArg _ (arbitrate_offered hg hn
        (by rw [grantAccess_write hcl check, guardStage_unguarded (s := s.offered p acc) ht, beginStore_offered]))
    · have check : lockCheck p acc (s.offered p acc) = none :=
        lockCheck_release hcl (holds_iff.2 ⟨l, hl, hlw⟩)
      let u : State := s.setLock p (some { l with phase := .releasing, timer := l.timer.map HoldTimer.stop })
      exact congrArg _ (arbitrate_offered (t := u) hg hn
        (by rw [grantAccess_release hcl check, beginRelease_eq (s := s.offered p acc) hl, setLock_offered,
          guardStage_unguarded (s := u.offered p acc) ht, beginStore_offered]))

/-- Settles O36: the checks one after the other, under the lock table's law. -/
theorem lockChecksAtTheGrant : Obligations.LockChecksAtTheGrant := by
  intro p a s hs
  refine ⟨fun hc => ?_, fun hc => ⟨fun ⟨q, hq, hh⟩ => ?_, fun hn => ?_⟩, fun hc => ?_,
    fun hc => ⟨fun hw => ?_, fun w hw => ⟨fun hk => ?_, fun hd => ?_, fun hk hd => ⟨fun hp => ?_, fun hp =>
      ⟨fun ⟨q, hq, hh⟩ => ?_, fun hn => ?_⟩⟩⟩⟩, fun r hr => grantAccess_refused hr⟩
  · rcases hc with hc | hc <;> simp [lockCheck, hc]
  · simp [lockCheck, hc, otherHolds_of_holds hs hq hh]
  · simp [lockCheck, hc, otherHolds_of_none hn]
  · simp [lockCheck, hc]
  · simp [lockCheck, hc, hw]
  · simp [lockCheck, hc, hw, hk]
  · have hk : w.kind ≠ .view := by
      intro hk
      rw [draining_of_kind (by rw [hk]; decide)] at hd
      cases hd
    simp [lockCheck, hc, hw, hk, hd]
  · simp [lockCheck, hc, hw, hk, hd, hp]
  · simp [lockCheck, hc, hw, hk, hd, hp, otherHolds_of_holds hs hq hh]
  · rw [lockCheck_lockRead hc hw hk hd hp (otherHolds_of_none hn)]

end Sys2Proof
end

section
/-! The guard check of a write at its grant, and the completion of a store access. -/

namespace Sys2Proof.Machine

variable {s t : State} {p q : PortId} {a : Access} {h : Handle} {w : Window}

/-! ### The guards taking part in a write (R140) -/

theorem takesPart_iff {k : Guard} :
    takesPart p a k = true ↔
      k.window = a.handle ∧ k.mask.getLsbD p.val = true ∧
        (k.offset = a.offset / 4 * 4 ∨ a.size = .eight ∧ k.offset = a.offset / 4 * 4 + 4) := by
  cases hz : a.size <;> simp [takesPart, inMask, wordsChanged, hz, and_assoc]

theorem takenGuard_eq_some {i : GuardId} {g : HeldGuard} :
    takenGuard p a s i = some g ↔ ∃ k, s.guard i = some k ∧ takesPart p a k = true ∧ g = holdGuard i k := by
  unfold takenGuard
  cases s.guard i with
  | none => simp
  | some k =>
    constructor
    · intro hg
      simp only at hg
      split at hg
      · next ht => exact ⟨k, rfl, ht, (Option.some.inj hg).symm⟩
      · cases hg
    · rintro ⟨k', hk, ht, rfl⟩
      cases hk
      exact if_pos ht

theorem mem_takingPart {g : HeldGuard} :
    g ∈ takingPart p a s ↔
      ∃ k, s.guard g.index = some k ∧ takesPart p a k = true ∧ g = holdGuard g.index k := by
  simp only [takingPart, List.mem_filterMap, List.mem_finRange, true_and, takenGuard_eq_some]
  constructor
  · rintro ⟨i, k, hk, ht, rfl⟩
    exact ⟨k, hk, ht, rfl⟩
  · rintro ⟨k, hk, ht, hg⟩
    exact ⟨g.index, k, hk, ht, hg⟩

/-- Each record takes part once. -/
theorem takingPart_nodup (p : PortId) (a : Access) (s : State) :
    ((takingPart p a s).map HeldGuard.index).Nodup := by
  rw [takingPart, List.map_filterMap]
  refine (List.nodup_finRange 16).filterMap fun i j x hi hj => ?_
  obtain ⟨g, hg, rfl⟩ := Option.map_eq_some_iff.1 (Option.mem_def.1 hi)
  obtain ⟨g', hg', he⟩ := Option.map_eq_some_iff.1 (Option.mem_def.1 hj)
  obtain ⟨k, -, -, rfl⟩ := takenGuard_eq_some.1 hg
  obtain ⟨k', -, -, rfl⟩ := takenGuard_eq_some.1 hg'
  exact he.symm

theorem refuses_iff {cs : List (HeldGuard × Word)} :
    refuses cs = true ↔ ∃ x ∈ cs, x.1.action = .refuse ∧ x.1.admits x.2 = false := by
  simp [refuses]

theorem refuses_eq_false {cs : List (HeldGuard × Word)} :
    refuses cs = false ↔ ∀ x ∈ cs, x.1.action = .refuse → x.1.admits x.2 = true := by
  rw [Bool.eq_false_iff, Ne, refuses_iff]
  simp

/-! ### Trips (R142, R143) -/

/-- A record after a REPORT trip of a write on this window. -/
def Guard.tripped (p : PortId) (h : Handle) (x : HeldGuard × Word) (k : Guard) : Guard :=
  if k.window = h ∧ k.offset = x.1.offset then { k with trip := some (nextTrip p x.2 k.trip) } else k

theorem guard_recordTrip (p : PortId) (h : Handle) (s : State) (x : HeldGuard × Word) (i : GuardId) :
    (recordTrip p h s x).guard i =
      if x.1.index = i then (s.guard i).map (Guard.tripped p h x) else s.guard i := by
  unfold recordTrip
  cases hk : s.guard x.1.index with
  | none =>
    by_cases hi : x.1.index = i
    · simp [← hi, hk]
    · simp [hi]
  | some k =>
    by_cases hm : k.window = h ∧ k.offset = x.1.offset
    · simp only [if_pos hm, guard_setGuard]
      by_cases hi : x.1.index = i
      · simp [← hi, hk, Guard.tripped, hm]
      · simp [hi]
    · simp only [if_neg hm]
      by_cases hi : x.1.index = i
      · simp [← hi, hk, Guard.tripped, hm]
      · simp [hi]

theorem recordTrip_only (p : PortId) (h : Handle) (s : State) (x : HeldGuard × Word) :
    recordTrip p h s x = { s with guards := (recordTrip p h s x).guards } := by
  unfold recordTrip
  repeat' split
  all_goals rfl

theorem foldl_recordTrip_only (p : PortId) (h : Handle) (l : List (HeldGuard × Word)) (s : State) :
    l.foldl (recordTrip p h) s = { s with guards := (l.foldl (recordTrip p h) s).guards } := by
  induction l generalizing s with
  | nil => rfl
  | cons x l ih =>
    simp only [List.foldl_cons]
    rw [ih, recordTrip_only]

/-- A record that no trip finds with its window and word stays as it is. -/
theorem guard_foldl_unnamed {l : List (HeldGuard × Word)} {i : GuardId}
    (hl : ∀ x ∈ l, x.1.index = i → ∀ k, s.guard i = some k → ¬(k.window = h ∧ k.offset = x.1.offset)) :
    (l.foldl (recordTrip p h) s).guard i = s.guard i := by
  induction l generalizing s with
  | nil => rfl
  | cons x l ih =>
    have head : (recordTrip p h s x).guard i = s.guard i := by
      rw [guard_recordTrip]
      split
      · next hi =>
        cases hk : s.guard i with
        | none => rfl
        | some k =>
          have other := hl x List.mem_cons_self hi k hk
          rw [Option.map_some, Guard.tripped, if_neg other]
      · rfl
    rw [List.foldl_cons, ih, head]
    intro y hy hi
    rw [head]
    exact hl y (List.mem_cons_of_mem x hy) hi

/-- A record that one trip names takes it. -/
theorem guard_foldl_named {l : List (HeldGuard × Word)} {i : GuardId} {k : Guard} {x : HeldGuard × Word}
    (hn : (l.map fun x => x.1.index).Nodup) (hx : x ∈ l) (hi : x.1.index = i) (hk : s.guard i = some k)
    (hm : k.window = h ∧ k.offset = x.1.offset) :
    (l.foldl (recordTrip p h) s).guard i = some { k with trip := some (nextTrip p x.2 k.trip) } := by
  induction l generalizing s with
  | nil => cases hx
  | cons y l ih =>
    simp only [List.map_cons, List.nodup_cons, List.mem_map, not_exists, not_and] at hn
    obtain ⟨fresh, rest⟩ := hn
    rcases List.mem_cons.1 hx with rfl | hx
    · rw [List.foldl_cons, guard_foldl_unnamed]
      · rw [guard_recordTrip, if_pos hi, hk, Option.map_some, Guard.tripped, if_pos hm]
      · intro z hz hzi
        exact absurd (hzi.trans hi.symm) (fresh z hz)
    · rw [List.foldl_cons]
      refine ih rest hx ?_
      have other : y.1.index ≠ i := fun e => fresh x hx (hi.trans e.symm)
      rw [guard_recordTrip, if_neg other, hk]

theorem recordTrips_of_none {cs : List (HeldGuard × Word)}
    (hn : ∀ x ∈ cs, ¬(x.1.action = .report ∧ x.1.admits x.2 = false)) : recordTrips p h cs s = s := by
  have none : cs.filter (HeldGuard.trips .report) = [] := by
    rw [List.filter_eq_nil_iff]
    intro x hx ht
    exact hn x hx (HeldGuard.trips_iff.1 ht)
  simp [recordTrips, none]

theorem recordTrips_of_some {cs : List (HeldGuard × Word)}
    (hn : ∃ x ∈ cs, x.1.action = .report ∧ x.1.admits x.2 = false) :
    recordTrips p h cs s = raise .guardTrip ((cs.filter (HeldGuard.trips .report)).foldl (recordTrip p h) s) := by
  obtain ⟨x, hx, ht⟩ := hn
  have some : cs.filter (HeldGuard.trips .report) ≠ [] :=
    List.ne_nil_of_mem (List.mem_filter.2 ⟨hx, HeldGuard.trips_iff.2 ht⟩)
  simp [recordTrips, some]

theorem recordTrips_only (p : PortId) (h : Handle) (cs : List (HeldGuard × Word)) (s : State) :
    recordTrips p h cs s =
      { s with guards := (recordTrips p h cs s).guards, events := (recordTrips p h cs s).events } := by
  simp only [recordTrips]
  split
  · rfl
  · rw [foldl_recordTrip_only]
    rfl

theorem guard_recordTrips (p : PortId) (h : Handle) (cs : List (HeldGuard × Word)) (s : State) (i : GuardId) :
    (recordTrips p h cs s).guard i =
      ((cs.filter (HeldGuard.trips .report)).foldl (recordTrip p h) s).guard i := by
  by_cases hn : ∃ x ∈ cs, x.1.action = .report ∧ x.1.admits x.2 = false
  · rw [recordTrips_of_some hn]
    rfl
  · have none : ∀ x ∈ cs, ¬(x.1.action = .report ∧ x.1.admits x.2 = false) :=
      fun x hx ht => hn ⟨x, hx, ht⟩
    rw [recordTrips_of_none none, guard_foldl_unnamed]
    intro x hx
    obtain ⟨hc, ht⟩ := List.mem_filter.1 hx
    exact absurd (HeldGuard.trips_iff.1 ht) (none x hc)

/-- The locks have no part in the recording of trips. -/
theorem recordTrips_setLock (q : PortId) (l : Option Lock) (p : PortId) (h : Handle)
    (cs : List (HeldGuard × Word)) (s : State) :
    recordTrips p h cs (s.setLock q l) = (recordTrips p h cs s).setLock q l := by
  have one : ∀ (s : State) (x : HeldGuard × Word),
      recordTrip p h (s.setLock q l) x = (recordTrip p h s x).setLock q l := by
    intro s x
    have same : (s.setLock q l).guard x.1.index = s.guard x.1.index := rfl
    unfold recordTrip
    rw [same]
    repeat' split
    all_goals rfl
  have fold : ∀ (cs : List (HeldGuard × Word)) (s : State),
      cs.foldl (recordTrip p h) (s.setLock q l) = (cs.foldl (recordTrip p h) s).setLock q l := by
    intro cs
    induction cs with
    | nil => intro s; rfl
    | cons x cs ih => intro s; rw [List.foldl_cons, one, ih, List.foldl_cons]
  simp only [recordTrips, fold]
  split <;> rfl

/-! ### The guard check at the grant (R30, R142) -/

/-- A write that goes on to the store after its check. -/
theorem beginStore_recordTrips (p : PortId) (a : Access) (cs : List (HeldGuard × Word)) (s : State) :
    beginStore p a (recordTrips p a.handle cs s) =
      { recordTrips p a.handle cs s with
        ports := s.ports.set p { s.port p with access := some { acc := a, stage := .storing (storeAddress s a) } } } := by
  rw [recordTrips_only]
  rfl

theorem finishCheck_admitted {cs : List (HeldGuard × Word)} (e : Nat)
    (hc : ∀ x ∈ cs, x.1.action = .refuse → x.1.admits x.2 = true) :
    finishCheck p a cs e s =
      { recordTrips p a.handle cs s with
        ports := s.ports.set p { s.port p with access := some { acc := a, stage := .storing (storeAddress s a) } } } := by
  rw [finishCheck, refuses_eq_false.2 hc, ← beginStore_recordTrips]
  rfl

theorem finishCheck_refused {cs : List (HeldGuard × Word)} (e : Nat) (ha : classReads a.cls = false)
    (hc : ∃ x ∈ cs, x.1.action = .refuse ∧ x.1.admits x.2 = false) :
    finishCheck p a cs e s =
      { (if a.cls = .releaseWrite then restoreLock p a.handle e s else s).answeredAt p a.cls a.addr .guard
          (some a.handle.index) [] with grant := none } := by
  rw [finishCheck, refuses_iff.2 hc, if_pos rfl, refuse_eq]
  simp only [zeroData, ha]
  rfl

theorem guardStage_merges (hg : takingPart p a s ≠ []) (hz : a.size = .one ∨ a.size = .two) :
    guardStage p a s = setStage p a (.merging (takingPart p a s)) s := by
  have merge : needsMerge a.size = true := by rcases hz with hz | hz <;> rw [hz] <;> rfl
  simp [guardStage, hg, merge]

theorem guardStage_checks (hg : takingPart p a s ≠ []) (hz : a.size = .four ∨ a.size = .eight) :
    guardStage p a s = finishCheck p a ((takingPart p a s).map fun g => (g, checkedWord a g)) 0 s := by
  have merge : needsMerge a.size = false := by rcases hz with hz | hz <;> rw [hz] <;> rfl
  simp [guardStage, hg, merge]

/-- A release that is refused at its grant has its lock as it was (R123). -/
theorem restoreLock_at_grant {l : Lock} (hw : l.window = h)
    (ht : l.timer = none ∨ ∃ r, 1 ≤ r ∧ l.timer = some (.running r)) :
    restoreLock p h 0 (s.setLock p (some { l with phase := .releasing, timer := l.timer.map HoldTimer.stop })) =
      s.setLock p (some { l with phase := .heldByPort }) := by
  have twice : ∀ x y : Option Lock, (s.setLock p x).setLock p y = s.setLock p y := by
    intro x y
    simp [State.setLock]
  simp only [restoreLock, lock_setLock_same, hw, true_and, if_true]
  rcases ht with ht | ⟨r, hr, ht⟩
  · simp only [ht, Option.map_none, twice]
  · have left : ¬ r ≤ 0 + 0 := by omega
    simp only [ht, Option.map_some, HoldTimer.stop, if_neg left, twice]
    rfl

end Sys2Proof.Machine

namespace Sys2Proof

open Machine

/-- Settles O37: the guards by their records, the check by their verdicts, and the trips one by one. -/
theorem guardsJudgeAWriteAtItsGrant : Obligations.GuardsJudgeAWriteAtItsGrant := by
  refine ⟨fun p a s => ⟨takingPart_nodup p a s, fun g => ?_⟩, fun p a s hc ho hg => ?_,
    fun p a s l hc hl hlw hg ht => ?_, fun a g => ⟨fun hg => ?_, fun hg => ?_⟩, fun p h cs s hn => ?_⟩
  · rw [mem_takingPart]
    constructor
    · rintro ⟨k, hk, ht, hg⟩
      obtain ⟨hw, hm, hx⟩ := takesPart_iff.1 ht
      rw [hg]
      exact ⟨k, hk, hw, hm, hx, rfl, rfl, rfl, rfl, rfl⟩
    · rintro ⟨k, hk, hw, hm, hx, h1, h2, h3, h4, h5⟩
      refine ⟨k, hk, takesPart_iff.2 ⟨hw, hm, hx⟩, ?_⟩
      obtain ⟨i, o, lo, hi, sg, ac⟩ := g
      cases h1; cases h2; cases h3; cases h4; cases h5
      rfl
  · intro cs
    have reads : classReads a.cls = false := by rw [hc]; rfl
    rw [grantAccess_write hc (lockCheck_write hc ho)]
    refine ⟨fun hz => ?_, fun hz => ⟨fun hr => ?_, fun hr => ?_⟩⟩
    · rw [guardStage_merges hg hz]
      rfl
    · rw [guardStage_checks hg hz, finishCheck_refused 0 reads hr, if_neg (by rw [hc]; decide)]
    · rw [guardStage_checks hg hz, finishCheck_admitted 0 hr]
  · intro cs releasing
    have reads : classReads a.cls = false := by rw [hc]; rfl
    let u : Option Lock := some { l with phase := .releasing, timer := l.timer.map HoldTimer.stop }
    have locks : releasing = s.locks.set p u := by
      rcases l with ⟨_, _, _ | _ | _⟩ <;> rfl
    have guards : takingPart p a (s.setLock p u) = takingPart p a s := rfl
    rw [grantAccess_release hc (lockCheck_release hc (holds_iff.2 ⟨l, hl, hlw⟩)), beginRelease_eq hl, locks]
    refine ⟨fun hz => ?_, fun hz => ⟨fun hr => ?_, fun hr => ?_⟩⟩
    · rw [guardStage_merges (s := s.setLock p u) hg hz]
      rfl
    · rw [guardStage_checks (s := s.setLock p u) hg hz, guards, finishCheck_refused 0 reads hr, if_pos hc,
        restoreLock_at_grant hlw ht]
      rfl
    · rw [guardStage_checks (s := s.setLock p u) hg hz, guards, finishCheck_admitted 0 hr, recordTrips_setLock,
        recordTrips_only]
      rfl
  · simp [checkedWord, hg]
  · simp [checkedWord, hg]
  · intro trips
    refine ⟨recordTrips_only p h cs s, fun hx => ?_, recordTrips_of_none, fun i => ⟨fun hi => ?_,
      fun k hk => ⟨fun x hx hi ht hw ho => ?_, fun hnone => ?_⟩⟩⟩
    · rw [recordTrips_of_some hx, foldl_recordTrip_only]
      rfl
    · rw [guard_recordTrips, guard_foldl_unnamed, hi]
      intro x hx hxi k hk
      rw [hi] at hk
      cases hk
    · rw [guard_recordTrips]
      have mem : x ∈ cs.filter (HeldGuard.trips .report) :=
        List.mem_filter.2 ⟨hx, HeldGuard.trips_iff.2 ht⟩
      rw [guard_foldl_named ((List.filter_sublist.map _).nodup hn) mem hi hk ⟨hw, ho⟩]
      cases k.trip <;> rfl
    · rw [guard_recordTrips, guard_foldl_unnamed, hk]
      intro x hx hxi k' hk'
      obtain ⟨hc, ht⟩ := List.mem_filter.1 hx
      rw [hk] at hk'
      cases hk'
      exact hnone x hc hxi (HeldGuard.trips_iff.1 ht)

end Sys2Proof
end

section
/-! The completion of a store access, the marking of a line, and the order of the grant decisions. -/

namespace Sys2Proof.Machine

variable {s t : State} {p q : PortId} {a : Access} {h : Handle} {w : Window}

/-! ### The store -/

/-- Writing a byte changes no other, whatever the list's form. -/
theorem Memory.byte_set_other (m : List Host.Cell) {x y : Nat} (v : Byte) (hy : y ≠ x) :
    Memory.byte (Memory.set m x v) y = Memory.byte m y := by
  induction m with
  | nil =>
    unfold Memory.set
    split
    · rfl
    · simp [Memory.byte, Ne.symm hy]
  | cons c m ih =>
    obtain ⟨k, b⟩ := c
    unfold Memory.set
    split
    · split
      · rfl
      · simp [Memory.byte, Ne.symm hy]
    · split
      · next he =>
        subst he
        split <;> simp [Memory.byte, Ne.symm hy]
      · simp only [Memory.byte, ih]

theorem Memory.byte_write_other (m : List Host.Cell) (bs : List Byte) {x y : Nat}
    (hy : y < x ∨ x + bs.length ≤ y) : Memory.byte (Memory.write m x bs) y = Memory.byte m y := by
  induction bs generalizing m x with
  | nil => rfl
  | cons b bs ih =>
    simp only [List.length_cons] at hy
    rw [Memory.write, ih _ (by omega), Memory.byte_set_other _ _ (by omega)]

/-! ### The hand-over of a write (R33, R46) -/

theorem markLine_only (h : Handle) (n : Nat) (s : State) :
    markLine h n s =
      { s with
        slots := (markLine h n s).slots, free := (markLine h n s).free, urgency := (markLine h n s).urgency,
        events := (markLine h n s).events } := by
  rcases markLine_cases h n s with e | ⟨w, l, -, -, -, ⟨-, e⟩ | ⟨-, e⟩⟩ <;> rw [e]
  · rfl
  · rfl

theorem markWrite_only (a : Access) (s : State) :
    markWrite a s =
      { s with
        slots := (markWrite a s).slots, free := (markWrite a s).free, urgency := (markWrite a s).urgency,
        events := (markWrite a s).events } := by
  unfold markWrite
  split
  · rw [markLine_only]
  · rfl

theorem handOver_write (hc : a.cls = .write) : handOver p a s = markWrite a s := by
  simp [handOver, hc]

/-- A release whose entry no longer stands releases nothing (R123). -/
theorem handOver_stale (hn : ∀ l, s.lock p = some l → l.window = a.handle → l.phase ≠ .releasing) :
    handOver p a s = markWrite a s := by
  have lock : (markWrite a s).lock p = s.lock p := by rw [markWrite_only]; rfl
  simp only [handOver, finishRelease, lock]
  split
  · cases hl : s.lock p with
    | none => rfl
    | some l => exact if_neg fun hw => hn l hl hw.1 hw.2
  · rfl

/-- A release empties its entry, with the unlock notice (R123, R131). -/
theorem handOver_releases {l : Lock} (hc : a.cls = .releaseWrite) (hl : s.lock p = some l)
    (hw : l.window = a.handle) (hp : l.phase = .releasing) :
    handOver p a s =
      { markWrite a s with
        locks := s.locks.set p none,
        continues := if s.engine.state = .held ∧ s.pausedOn a.handle = true then s.continues + 1
                     else s.continues } := by
  have lock : (markWrite a s).lock p = some l := by rw [markWrite_only]; exact hl
  simp only [handOver, finishRelease, lock, hc, hw, hp, and_self, if_true]
  rw [unlockNotice_eq, markWrite_only]
  rfl

/-! ### The completion of a store access (R31 to R33) -/

theorem answer_eq (p : PortId) (a : Access) (r : Resp) (b : List Byte) (s : State)
    (hr : faultWindow r (some a.handle.index) = some a.handle.index) :
    answer p a r b s = s.answeredAt p a.cls a.addr r (some a.handle.index) b := by
  rw [answer, respond_accessFault, hr]

theorem exec_storeAccessDone {x : Nat} (e : Bool) (hr : s.inReset = none) (hg : s.grant = some (.port p))
    (ha : (s.port p).access = some { acc := a, stage := .storing (some x) })
    (hi : s.inStore x (sizeBytes a.size) = true) :
    exec (.storeAccessDone e) s = .next (storeDone p a (some x) e s) := by
  show whenRunning (storeAccessDone e) s = _
  simp [whenRunning_running hr, storeAccessDone, State.grantedAccess, hg, ha, accessInStore, hi]

theorem storeDone_read {x : Nat} (hc : classReads a.cls = true) :
    storeDone p a (some x) false s =
      arbitrate { s.answeredAt p a.cls a.addr .ok (some a.handle.index)
        (Memory.read s.store x (sizeBytes a.size)) with grant := none } := by
  simp only [storeDone, hc, if_true, readDone, Bool.false_eq_true, if_false]
  rw [answer_eq p a .ok _ _ rfl]
  rfl

theorem storeDone_readFailed {x : Nat} (hc : classReads a.cls = true) :
    storeDone p a (some x) true s =
      arbitrate { s.answeredAt p a.cls a.addr .storeError (some a.handle.index)
        (List.replicate (sizeBytes a.size) 0) with grant := none } := by
  simp only [storeDone, hc, if_true, readDone, refuse_eq, zeroData]
  rfl

theorem storeDone_write {x : Nat} (hc : classReads a.cls = false) :
    storeDone p a (some x) false s =
      arbitrate { (handOver p a { s with
          store := Memory.write s.store x (natToBytes a.data.toNat (sizeBytes a.size)) }).answeredAt
        p a.cls a.addr .ok (some a.handle.index) [] with grant := none } := by
  simp only [storeDone, hc, Bool.false_eq_true, if_false, writeDone]
  rw [answer_eq p a .ok _ _ rfl]
  rfl

theorem storeDone_writeFailed {x : Nat} (hc : classReads a.cls = false) :
    storeDone p a (some x) true s =
      arbitrate { (handOver p a { s with
          store := Memory.write s.store x (unstatedBytes s.fresh x (sizeBytes a.size)),
          fresh := s.fresh + 1 }).answeredAt
        p a.cls a.addr .storeError (some a.handle.index) [] with grant := none } := by
  simp only [storeDone, hc, Bool.false_eq_true, if_false, writeDone, if_true]
  rw [answer_eq p a .storeError _ _ rfl]
  rfl

/-! ### The change tracker (R44, R46, R47) -/

theorem markLine_unmatched {n : Nat} (hw : s.window? h = none) : markLine h n s = s := by
  simp [markLine, hw]

theorem markLine_untracked {n : Nat} (hw : s.window? h = some w) (hd : w.dirty? = none) : markLine h n s = s := by
  simp [markLine, hw, hd]

theorem markLine_whole {n : Nat} (hw : s.window? h = some w) (hd : w.dirty? = some .whole) :
    markLine h n s = s := by
  simp [markLine, hw, hd]

theorem markLine_marked {n : Nat} {l : List Nat} (hw : s.window? h = some w) (hd : w.dirty? = some (.lines l))
    (hn : n ∈ l) : markLine h n s = s := by
  simp [markLine, hw, hd, hn]

theorem markLine_takes {n : Nat} {l : List Nat} (hw : s.window? h = some w) (hd : w.dirty? = some (.lines l))
    (hn : n ∉ l) (hf : s.free ≠ 0) :
    markLine h n s = setFree (s.free - 1) (s.setWindow h.index (w.setDirty (.lines (insertLine n l)))) := by
  simp [markLine, hw, hd, hn, hf]

theorem markLine_overflows {n : Nat} {l : List Nat} (hw : s.window? h = some w)
    (hd : w.dirty? = some (.lines l)) (hn : n ∉ l) (hf : s.free = 0) :
    markLine h n s = raise .poolOverflow (setFree l.length (s.setWindow h.index (w.setDirty .whole))) := by
  simp [markLine, hw, hd, hn, hf]

theorem mem_insertLine {n m : Nat} {l : List Nat} : m ∈ insertLine n l ↔ m = n ∨ m ∈ l := by
  induction l with
  | nil => simp [insertLine]
  | cons x l ih =>
    unfold insertLine
    repeat' split
    · simp
    · next hx => subst hx; simp
    · simp only [List.mem_cons, ih]
      tauto

theorem pairwise_insertLine {n : Nat} {l : List Nat} (hl : l.Pairwise (· < ·)) :
    (insertLine n l).Pairwise (· < ·) := by
  induction l with
  | nil => simp [insertLine]
  | cons x l ih =>
    obtain ⟨above, rest⟩ := List.pairwise_cons.1 hl
    unfold insertLine
    split
    · next hx =>
      refine List.pairwise_cons.2 ⟨fun y hy => ?_, hl⟩
      rcases List.mem_cons.1 hy with rfl | hy
      · exact hx
      · exact hx.trans (above y hy)
    · split
      · exact hl
      · refine List.pairwise_cons.2 ⟨fun y hy => ?_, ih rest⟩
        rcases mem_insertLine.1 hy with rfl | hy
        · omega
        · exact above y hy

theorem setFree_urgency (n : Nat) (s : State) :
    (setFree n s).urgency = urgencyAfter s.engine.config.urgeOn s.engine.config.urgeOff n s.urgency := rfl

/-! ### The order of a grant decision (R41, R42) -/

theorem enginePriority_iff :
    enginePriority s = true ↔ s.urgency = true ∨ s.engine.state = .urgent ∨ s.engine.state = .drain := by
  simp [enginePriority, or_assoc]

theorem unitWaiting_free (hg : s.grant = none) : s.unitWaiting = s.pubUnit.wantsStore := by
  simp [State.unitWaiting, hg]

theorem arbitrate_engine (hg : s.grant = none) (hp : pick s = some .engine) :
    arbitrate s = { s with grant := some .engine } := by
  simp [arbitrate, hg, grantLoop, hp]

theorem pick_priority (hp : enginePriority s = true) (hu : s.unitWaiting = true) : pick s = some .engine := by
  simp [pick, hp, hu]

theorem pick_port (hn : ¬(enginePriority s = true ∧ s.unitWaiting = true)) (hp : nextPort s = some p) :
    pick s = some (.port p) := by
  rw [← Bool.and_eq_true] at hn
  simp only [pick, if_neg hn, hp]

/-- With no port waiting the unit is granted, of whatever priority. -/
theorem arbitrate_unported (hg : s.grant = none) (hw : ∀ p, s.waitingAccess p = none)
    (hu : s.pubUnit.wantsStore = true) : arbitrate s = { s with grant := some .engine } := by
  refine arbitrate_engine hg ?_
  have none : nextPort s = none := by
    cases hn : nextPort s with
    | none => rfl
    | some p => simpa [hw p] using nextPort_some hn
  simp [pick, none, unitWaiting_free hg, hu]

/-- The waiting port at the least distance from the pointer is the next one (R41). -/
theorem nextPort_at {k : Nat} (h1 : 1 ≤ k) (h4 : k ≤ 4)
    (hk : (s.waitingAccess (s.pointer + Fin.ofNat 4 k)).isSome = true)
    (hj : ∀ j, 1 ≤ j → j < k → s.waitingAccess (s.pointer + Fin.ofNat 4 j) = none) :
    nextPort s = some (s.pointer + Fin.ofNat 4 k) := by
  have order : nextPort s = [s.pointer + Fin.ofNat 4 1, s.pointer + Fin.ofNat 4 2, s.pointer + Fin.ofNat 4 3,
      s.pointer + Fin.ofNat 4 4].find? fun p => (s.waitingAccess p).isSome := by
    have four : s.pointer + Fin.ofNat 4 4 = s.pointer := Fin.add_zero _
    rw [four]
    rfl
  have skip : ∀ (j : Nat) (l : List PortId), 1 ≤ j → j < k →
      ((s.pointer + Fin.ofNat 4 j) :: l).find? (fun p => (s.waitingAccess p).isSome) =
        l.find? fun p => (s.waitingAccess p).isSome := by
    intro j l h1 hlt
    exact List.find?_cons_of_neg (by rw [hj j h1 hlt]; simp)
  rw [order]
  interval_cases k
  · exact List.find?_cons_of_pos hk
  · rw [skip 1 _ (by omega) (by omega)]
    exact List.find?_cons_of_pos hk
  · rw [skip 1 _ (by omega) (by omega), skip 2 _ (by omega) (by omega)]
    exact List.find?_cons_of_pos hk
  · rw [skip 1 _ (by omega) (by omega), skip 2 _ (by omega) (by omega), skip 3 _ (by omega) (by omega)]
    exact List.find?_cons_of_pos hk

/-- What the checks at the grant leave of the pointer: all of it. -/
theorem restoreLock_pointer (p : PortId) (h : Handle) (e : Nat) (s : State) :
    (restoreLock p h e s).pointer = s.pointer := by
  have broken : (breakLock p s).pointer = s.pointer := by rw [breakLock_only]
  unfold restoreLock
  split
  · rfl
  · split
    · split
      · rfl
      · rfl
      · split
        · exact broken
        · rfl
    · rfl

theorem beginRelease_only (p : PortId) (s : State) :
    beginRelease p s = { s with locks := (beginRelease p s).locks } := by
  unfold beginRelease
  split <;> rfl

theorem finishCheck_pointer (p : PortId) (a : Access) (cs : List (HeldGuard × Word)) (e : Nat) (s : State) :
    (finishCheck p a cs e s).pointer = s.pointer := by
  unfold finishCheck
  split
  · rw [refuse_eq]
    show (if a.cls = .releaseWrite then restoreLock p a.handle e s else s).pointer = s.pointer
    split
    · exact restoreLock_pointer p a.handle e s
    · rfl
  · rw [beginStore_recordTrips, recordTrips_only]

theorem guardStage_pointer (p : PortId) (a : Access) (s : State) : (guardStage p a s).pointer = s.pointer := by
  unfold guardStage
  dsimp only
  repeat' split
  · rfl
  · rfl
  · exact finishCheck_pointer p a _ 0 s

theorem grantAccess_pointer (p : PortId) (a : Access) (s : State) : (grantAccess p a s).pointer = s.pointer := by
  cases hl : lockCheck p a s with
  | some r => rw [grantAccess_refused hl]; rfl
  | none =>
    cases hc : a.cls with
    | read => rw [grantAccess_read (.inl hc)]; rfl
    | fetch => rw [grantAccess_read (.inr hc)]; rfl
    | lockRead => rw [grantAccess_lockRead hc hl]; rfl
    | write => rw [grantAccess_write hc hl, guardStage_pointer]
    | releaseWrite => rw [grantAccess_release hc hl, guardStage_pointer, beginRelease_only]

/-- A write that check 6 lets pass comes to its guard check, a release with its lock RELEASING. -/
theorem grantAccess_guarded (hc : a.cls = .write ∨ a.cls = .releaseWrite) (hl : lockCheck p a s = none) :
    ∃ L, grantAccess p a s = guardStage p a { s with locks := L } := by
  rcases hc with hc | hc
  · exact ⟨s.locks, grantAccess_write hc hl⟩
  · exact ⟨(beginRelease p s).locks, by rw [grantAccess_release hc hl, beginRelease_only]⟩

theorem access_setStage (p : PortId) (a : Access) (st : Stage) (s : State) :
    ((setStage p a st s).port p).access = some { acc := a, stage := st } := by
  simp [setStage]

/-- A class that reads, let pass, goes to the store. -/
theorem grantAccess_reads (hc : classReads a.cls = true) (hl : lockCheck p a s = none) :
    ∃ L, grantAccess p a s = beginStore p a { s with locks := L } := by
  cases hcl : a.cls with
  | read => exact ⟨s.locks, grantAccess_read (.inl hcl)⟩
  | fetch => exact ⟨s.locks, grantAccess_read (.inr hcl)⟩
  | lockRead => exact ⟨_, grantAccess_lockRead hcl hl⟩
  | write => rw [hcl] at hc; cases hc
  | releaseWrite => rw [hcl] at hc; cases hc

end Sys2Proof.Machine

namespace Sys2Proof

open Machine

/-- Settles O38: the store, the hand-over and the answer, by the class and the error. -/
theorem storeAccessesComplete : Obligations.StoreAccessesComplete := by
  refine ⟨fun p a x s hr hg ha hc hi => ⟨?_, ?_⟩, fun p a x s hr hg ha hi => ?_⟩
  · rw [exec_storeAccessDone false hr hg ha hi, storeDone_read hc]
  · rw [exec_storeAccessDone true hr hg ha hi, storeDone_readFailed hc]
  · intro bs mark m f
    have good : m = markWrite a { s with store := Memory.write s.store x bs } := (markWrite_eq a _).symm
    have bad : f = markWrite a { s with
        store := Memory.write s.store x (unstatedBytes s.fresh x (sizeBytes a.size)),
        fresh := s.fresh + 1 } := (markWrite_eq a _).symm
    rw [exec_storeAccessDone false hr hg ha hi, exec_storeAccessDone true hr hg ha hi]
    refine ⟨fun hc => ?_, fun hc l hl hw hp => ?_, fun y vs hv hy => Memory.byte_write_other _ _ (by rwa [hv]),
      fun hs => ?_⟩
    · have reads : classReads a.cls = false := by rcases hc with hc | ⟨hc, -⟩ <;> rw [hc] <;> rfl
      have marks : ∀ u : State, u.locks = s.locks → handOver p a u = markWrite a u := by
        intro u hu
        rcases hc with hc | ⟨-, hn⟩
        · exact handOver_write hc
        · exact handOver_stale fun l hl => hn l (by rw [← lock_congr hu, hl])
      rw [storeDone_write reads, storeDone_writeFailed reads, marks, marks, good, bad]
      exacts [⟨rfl, rfl⟩, rfl, rfl]
    · have reads : classReads a.cls = false := by rw [hc]; rfl
      rw [storeDone_write reads, storeDone_writeFailed reads,
        handOver_releases (s := { s with store := Memory.write s.store x bs }) hc hl hw hp,
        handOver_releases (s := { s with
          store := Memory.write s.store x (unstatedBytes s.fresh x (sizeBytes a.size)),
          fresh := s.fresh + 1 }) hc hl hw hp, good, bad]
      exact ⟨rfl, rfl⟩
    · have back := Memory.read_write (m := s.store) bs x hs
      rwa [length_natToBytes] at back

/-- Settles O39: marking by the dirty set and the free count, and the flag by the thresholds. -/
theorem markingMovesDirtySetAndUrgency : Obligations.MarkingMovesDirtySetAndUrgency := by
  refine ⟨fun h n s => ⟨markLine_unmatched, fun w hw => ⟨fun hk => ?_, markLine_whole hw, fun l hd =>
    ⟨markLine_marked hw hd, fun hn hf => ⟨?_, fun m => mem_insertLine, length_insertLine hn, pairwise_insertLine⟩,
      fun hn hf => ?_⟩⟩⟩, fun n s => ⟨rfl, fun hn => ?_, fun ho hn => ?_, fun h1 h2 => ?_⟩, fun n s => rfl⟩
  · refine markLine_untracked hw ?_
    unfold Window.kind at hk
    unfold Window.dirty?
    cases hb : w.body <;> simp_all
  · rw [markLine_takes hw hd hn (by omega)]
    rfl
  · rw [markLine_overflows hw hd hn hf]
    rfl
  · rw [setFree_urgency, urgencyAfter, if_pos hn]
  · rw [setFree_urgency, urgencyAfter, if_neg (by omega), if_pos hn]
  · rw [setFree_urgency, urgencyAfter, if_neg (by omega), if_neg (by omega)]

/-- Settles O41: the contender chosen, and what its checks make of the grant. -/
theorem grantDecisionFollowsTheOrder : Obligations.GrantDecisionFollowsTheOrder := by
  intro s
  refine ⟨arbitrate_held, fun hg => ⟨fun hp hu => ?_, fun hn => ?_⟩⟩
  · exact arbitrate_engine hg (pick_priority (enginePriority_iff.2 hp) ((unitWaiting_free hg).trans hu))
  have behind : ¬(enginePriority s = true ∧ s.unitWaiting = true) := by
    rwa [enginePriority_iff, unitWaiting_free hg]
  have chosen : ∀ (k : Nat) (a : Access), 1 ≤ k → k ≤ 4 →
      s.waitingAccess (s.pointer + Fin.ofNat 4 k) = some a →
      (∀ j, 1 ≤ j → j < k → s.waitingAccess (s.pointer + Fin.ofNat 4 j) = none) →
      pick s = some (.port (s.pointer + Fin.ofNat 4 k)) := fun k a h1 h4 hw hj =>
    pick_port behind (nextPort_at h1 h4 (by rw [hw]; rfl) hj)
  refine ⟨fun k a h1 h4 hw hj hl hc => ?_, fun k a h1 h4 => ?_, arbitrate_unported hg,
    fun hw hu => arbitrate_idle hw ((unitWaiting_free hg).trans hu)⟩
  · have picked := chosen k a h1 h4 hw hj
    generalize s.pointer + Fin.ofNat 4 k = p at hw hl picked ⊢
    obtain ⟨L, hL⟩ := grantAccess_reads (s := { s with grant := some (.port p), pointer := p }) hc hl
    have granted : (grantAccess p a { s with grant := some (.port p), pointer := p }).grant = some (.port p) := by
      rw [hL]; rfl
    refine ⟨_, arbitrate_keeps hg picked hw (by rw [granted]; simp), granted, grantAccess_pointer p a _, ?_⟩
    rw [hL]
    exact access_setStage p a _ _
  · intro p g hw hj
    refine ⟨grantAccess_pointer p a _, arbitrate_picks hg (chosen k a h1 h4 hw hj) hw, fun c hc => ?_,
      fun hc hl => ?_⟩
    · rw [show g = _ from grantAccess_refused (s := { s with grant := some (.port p), pointer := p }) hc]
      rfl
    · obtain ⟨L, hL⟩ := grantAccess_guarded (s := { s with grant := some (.port p), pointer := p }) hc hl
      intro cs
      have hg : g = _ := hL
      refine ⟨fun hn => ?_, fun hn hz => ?_, fun hz hr => ?_⟩
      · rw [hg, guardStage_unguarded (s := { s with grant := some (.port p), pointer := p, locks := L }) hn]
        exact ⟨rfl, access_setStage p a _ _⟩
      · rw [hg, guardStage_merges (s := { s with grant := some (.port p), pointer := p, locks := L }) hn hz]
        exact ⟨rfl, access_setStage p a _ _⟩
      · have hn : takingPart p a s ≠ [] := by
          rintro he
          obtain ⟨y, hy, -⟩ := hr
          simp [cs, he] at hy
        have reads : classReads a.cls = false := by rcases hc with hc | hc <;> rw [hc] <;> rfl
        have check := finishCheck_refused (p := p)
          (s := { s with grant := some (.port p), pointer := p, locks := L }) 0 reads hr
        rw [hg, guardStage_checks (s := { s with grant := some (.port p), pointer := p, locks := L }) hn hz]
        refine check ▸ ?_
        simp [State.answeredAt, State.port, Port.answered]

end Sys2Proof
end

section
/-! The completion of a merging read. -/

namespace Sys2Proof.Machine

variable {s t : State} {p q : PortId} {a : Access} {h : Handle} {l : Lock}

/-! ### The checked word by its bytes (R140) -/

theorem bytesToNat_byte (bs : List Byte) (i : Nat) : bytesToNat bs / 256 ^ i % 256 = (bs.getD i 0).toNat := by
  induction bs generalizing i with
  | nil => simp [bytesToNat]
  | cons b bs ih =>
    have small : b.toNat < 256 := b.isLt
    cases i with
    | zero =>
      simp only [bytesToNat, pow_zero, Nat.div_one, List.getD_cons_zero]
      omega
    | succ i =>
      have tail : (b.toNat + 256 * bytesToNat bs) / 256 = bytesToNat bs := by omega
      rw [bytesToNat, pow_succ', ← Nat.div_div_eq_div_mul, tail, ih, List.getD_cons_succ]

theorem extractLsb'_word (bs : List Byte) {i : Nat} (hi : i < 4) :
    (BitVec.ofNat 32 (bytesToNat bs)).extractLsb' (8 * i) 8 = bs.getD i 0 := by
  refine BitVec.eq_of_toNat_eq ?_
  rw [← bytesToNat_byte, BitVec.extractLsb'_toNat, BitVec.toNat_ofNat, Nat.shiftRight_eq_div_pow]
  interval_cases i <;> omega

/-- The bytes of a write's value, lowest first. -/
theorem natToBytes_one (v : BitVec 64) : natToBytes v.toNat 1 = [v.extractLsb' 0 8] := by
  simp only [natToBytes, List.cons.injEq, and_true]
  exact BitVec.eq_of_toNat_eq (by simp)

theorem natToBytes_two (v : BitVec 64) : natToBytes v.toNat 2 = [v.extractLsb' 0 8, v.extractLsb' 8 8] := by
  simp only [natToBytes, List.cons.injEq, and_true]
  exact ⟨BitVec.eq_of_toNat_eq (by simp), BitVec.eq_of_toNat_eq (by simp [Nat.shiftRight_eq_div_pow])⟩

theorem mergedWord_one (b0 b1 b2 b3 : Byte) {i : Nat} (hi : i < 4) (hz : a.size = .one) :
    (mergedWord a [b0, b1, b2, b3]).extractLsb' (8 * i) 8 =
      if i = a.offset % 4 then a.data.extractLsb' 0 8 else [b0, b1, b2, b3].getD i 0 := by
  have hk : a.offset % 4 < 4 := Nat.mod_lt _ (by omega)
  rw [mergedWord, extractLsb'_word _ hi, hz]
  show (_ ++ natToBytes a.data.toNat 1 ++ _ : List Byte).getD i 0 = _
  rw [natToBytes_one]
  generalize a.offset % 4 = k at hk ⊢
  interval_cases k <;> interval_cases i <;> rfl

theorem mergedWord_two (b0 b1 b2 b3 : Byte) {i : Nat} (hi : i < 4) (hz : a.size = .two) (ho : a.offset % 2 = 0) :
    (mergedWord a [b0, b1, b2, b3]).extractLsb' (8 * i) 8 =
      if i / 2 = a.offset % 4 / 2 then a.data.extractLsb' (8 * (i % 2)) 8 else [b0, b1, b2, b3].getD i 0 := by
  have hk : a.offset % 4 = 0 ∨ a.offset % 4 = 2 := by omega
  rw [mergedWord, extractLsb'_word _ hi, hz]
  show (_ ++ natToBytes a.data.toNat 2 ++ _ : List Byte).getD i 0 = _
  rw [natToBytes_two]
  generalize a.offset % 4 = k at hk ⊢
  rcases hk with rfl | rfl <;> interval_cases i <;> rfl

/-! ### The lock of a release that is refused (R123, R124) -/

theorem restoreLock_stale (e : Nat) (hn : ∀ l, s.lock p = some l → l.window = h → l.phase ≠ .releasing) :
    restoreLock p h e s = s := by
  unfold restoreLock
  cases hl : s.lock p with
  | none => rfl
  | some l => exact if_neg fun hw => hn l hl hw.1 hw.2

theorem restoreLock_untimed (e : Nat) (hl : s.lock p = some l) (hw : l.window = h) (hp : l.phase = .releasing)
    (ht : l.timer = none) : restoreLock p h e s = s.setLock p (some { l with phase := .heldByPort }) := by
  simp [restoreLock, hl, hw, hp, ht]

theorem restoreLock_runs_on {r d e : Nat} (hl : s.lock p = some l) (hw : l.window = h) (hp : l.phase = .releasing)
    (ht : l.timer = some (.stopped r d)) (hr : d + e < r) :
    restoreLock p h e s =
      s.setLock p (some { l with phase := .heldByPort, timer := some (.running (r - (d + e))) }) := by
  simp [restoreLock, hl, hw, hp, ht, Nat.not_le.2 hr]

theorem restoreLock_expires {r d e : Nat} (hl : s.lock p = some l) (hw : l.window = h) (hp : l.phase = .releasing)
    (ht : l.timer = some (.stopped r d)) (hr : r ≤ d + e) : restoreLock p h e s = breakLock p s := by
  simp [restoreLock, hl, hw, hp, ht, hr]

/-! ### The completion (R30, R31) -/

theorem exec_mergingReadDone {gs : List HeldGuard} {x : Nat} (err : Bool) (e : Nat) (hr : s.inReset = none)
    (hg : s.grant = some (.port p)) (ha : (s.port p).access = some { acc := a, stage := .merging gs })
    (hx : storeAddress s a = some x) (hi : s.inStore (x - a.offset % 4) 4 = true) :
    exec (.mergingReadDone err e) s =
      .next (arbitrate
        (if err then mergeFailed p a s else mergeDone p a gs (x - a.offset % 4) e s)) := by
  show whenRunning (mergingReadDone err e) s = _
  simp [whenRunning_running hr, mergingReadDone, State.grantedAccess, hg, ha, mergeAddress, hx, hi]

theorem mergeFailed_eq (p : PortId) (a : Access) (s : State) :
    mergeFailed p a s =
      { (handOver p a s).answeredAt p a.cls a.addr .storeError (some a.handle.index) [] with grant := none } := by
  rw [mergeFailed, answer_eq p a .storeError _ _ rfl]
  rfl

theorem mergeDone_refused {gs : List HeldGuard} {x : Nat} (e : Nat) (hc : classReads a.cls = false)
    (hg : ∃ g ∈ gs, g.action = .refuse ∧ g.admits (mergedWord a (Memory.read s.store x 4)) = false) :
    mergeDone p a gs x e s =
      { (if a.cls = .releaseWrite then restoreLock p a.handle e s else s).answeredAt p a.cls a.addr .guard
          (some a.handle.index) [] with grant := none } := by
  obtain ⟨g, hm, hg⟩ := hg
  exact finishCheck_refused e hc ⟨_, List.mem_map_of_mem hm, hg⟩

/-- A write that is let pass goes on under the same grant. -/
theorem arbitrate_mergeDone {gs : List HeldGuard} {x : Nat} (e : Nat) (hs : s.grant ≠ none)
    (hg : ∀ g ∈ gs, g.action = .refuse → g.admits (mergedWord a (Memory.read s.store x 4)) = true) :
    arbitrate (mergeDone p a gs x e s) =
      { recordTrips p a.handle (gs.map fun g => (g, mergedWord a (Memory.read s.store x 4))) s with
        ports := s.ports.set p { s.port p with access := some { acc := a, stage := .storing (storeAddress s a) } } } := by
  have goes : mergeDone p a gs x e s = _ :=
    finishCheck_admitted (s := s) (p := p) (a := a)
      (cs := gs.map fun g => (g, mergedWord a (Memory.read s.store x 4))) e (by simpa using hg)
  rw [goes, arbitrate_held]
  rw [recordTrips_only]
  exact hs

end Sys2Proof.Machine

namespace Sys2Proof

open Machine

/-- Settles O40: the checked word by its bytes, and the write by the guards' verdict and its lock. -/
theorem mergingReadIsJudged : Obligations.MergingReadIsJudged := by
  refine ⟨fun a b0 b1 b2 b3 i hi => ⟨mergedWord_one b0 b1 b2 b3 hi, mergedWord_two b0 b1 b2 b3 hi⟩,
    fun p a gs x elapsed s hr hg ha hc hx hi => ?_, fun p a gs x elapsed s l hr hg ha hc hx hi hl hw hp => ?_⟩
  · have reads : classReads a.cls = false := by rcases hc with hc | ⟨hc, -⟩ <;> rw [hc] <;> rfl
    have marks : handOver p a s = markWrite a s := by
      rcases hc with hc | ⟨-, hn⟩
      · exact handOver_write hc
      · exact handOver_stale hn
    have restores : (if a.cls = .releaseWrite then restoreLock p a.handle elapsed s else s) = s := by
      rcases hc with hc | ⟨hc, hn⟩
      · rw [if_neg (by rw [hc]; decide)]
      · rw [if_pos hc, restoreLock_stale elapsed hn]
    simp only [exec_mergingReadDone _ elapsed hr hg ha hx hi, if_true, Bool.false_eq_true, if_false]
    refine ⟨fun hv => ?_, fun hv => ?_, ?_⟩
    · rw [mergeDone_refused elapsed reads hv, restores]
    · rw [arbitrate_mergeDone elapsed (by simp [hg]) hv, hx]
    · rw [mergeFailed_eq, marks, markWrite_eq]
  · have reads : classReads a.cls = false := by rw [hc]; rfl
    simp only [exec_mergingReadDone _ elapsed hr hg ha hx hi, if_true, Bool.false_eq_true, if_false]
    refine ⟨fun hv => ?_, ?_, fun hv => ⟨fun r e ht he => ?_, fun ht => ?_, fun r e ht he => ?_⟩⟩
    · rw [arbitrate_mergeDone elapsed (by simp [hg]) hv, hx]
    · rw [mergeFailed_eq, handOver_releases hc hl hw hp, markWrite_eq]
      rfl
    · rw [mergeDone_refused elapsed reads hv, if_pos hc, restoreLock_runs_on hl hw hp ht he]
      rfl
    · rw [mergeDone_refused elapsed reads hv, if_pos hc, restoreLock_untimed elapsed hl hw hp ht]
      rfl
    · rw [mergeDone_refused elapsed reads hv, if_pos hc, restoreLock_expires hl hw hp ht he, breakLock_eq hl]
      rfl

end Sys2Proof
end

section
/-! The next line of a publish, the actions of a line boundary, and the line copies that go on. -/

namespace Sys2Proof.Machine

variable {s t : State} {h : Handle} {r : PublishRecord} {w : Window} {p : Paired} {k : Working}

/-! ### The next line (R63) -/

theorem lowestFrom_eq_some {pos n : Nat} {l : List Nat} :
    lowestFrom pos l = some n ↔ n ∈ l ∧ pos ≤ n ∧ ∀ m ∈ l, pos ≤ m → n ≤ m := by
  simp [lowestFrom, List.min?_eq_some_iff, and_assoc]

theorem lowestFrom_eq_none {pos : Nat} {l : List Nat} : lowestFrom pos l = none ↔ ∀ m ∈ l, m < pos := by
  simp [lowestFrom, List.min?_eq_none_iff, List.filter_eq_nil_iff]

/-- The next line of a copy set that is the whole window. -/
theorem nextOfWhole_eq_some {pos n count : Nat} :
    (if pos < count then some pos else none) = some n ↔
      n < count ∧ pos ≤ n ∧ ∀ m, m < count → pos ≤ m → n ≤ m := by
  constructor
  · intro hn
    split at hn
    · next hlt =>
      cases hn
      exact ⟨hlt, Nat.le_refl _, fun m _ hm => hm⟩
    · cases hn
  · rintro ⟨hn, hp, hm⟩
    have low := hm pos (by omega) (Nat.le_refl _)
    rw [if_pos (by omega), Nat.le_antisymm hp low]

theorem nextOfWhole_eq_none {pos count : Nat} :
    (if pos < count then some pos else none) = none ↔ ∀ m, m < count → m < pos := by
  constructor
  · intro hn m hm
    split at hn
    · cases hn
    · omega
  · intro hm
    exact if_neg fun hlt => Nat.lt_irrefl _ (hm pos hlt)

theorem nextCopyLine_eq_some {n : Nat} (hk : p.work = some k) :
    nextCopyLine w p = some n ↔
      inCopySet w k.set p.carry n ∧ k.pos ≤ n ∧ ∀ m, inCopySet w k.set p.carry m → k.pos ≤ m → n ≤ m := by
  unfold nextCopyLine inCopySet
  rw [hk]
  cases hs : k.set with
  | whole => simpa [hs] using nextOfWhole_eq_some
  | lines x =>
    cases hc : p.carry with
    | whole => simpa [hs, hc] using nextOfWhole_eq_some
    | lines y => simpa [hs, hc] using lowestFrom_eq_some (l := x ++ y)

theorem nextCopyLine_eq_none (hk : p.work = some k) :
    nextCopyLine w p = none ↔ ∀ m, inCopySet w k.set p.carry m → m < k.pos := by
  unfold nextCopyLine inCopySet
  rw [hk]
  cases hs : k.set with
  | whole => simpa [hs] using nextOfWhole_eq_none
  | lines x =>
    cases hc : p.carry with
    | whole => simpa [hs, hc] using nextOfWhole_eq_none
    | lines y => simpa [hs, hc] using lowestFrom_eq_none (l := x ++ y)

/-! ### The actions of a boundary, one by one (R65) -/

theorem boundaryAction_abandons {seen : PublishRecord} {c : AbandonCause} {cs : List AbandonCause}
    (ha : seen.abandons = c :: cs) (hn : AbandonCause.retired ∉ seen.abandons) :
    boundaryAction seen r s = (abandonPublish r.handle s, some (.abandoned c)) := by
  simp only [boundaryAction, ha]
  rw [if_neg (by rwa [← ha])]

theorem boundaryAction_frees {seen : PublishRecord} (ha : AbandonCause.retired ∈ seen.abandons) :
    boundaryAction seen r s = (retireAtBoundary r.handle s, some (.abandoned .retired)) := by
  cases hl : seen.abandons with
  | nil => rw [hl] at ha; cases ha
  | cons c cs =>
    simp only [boundaryAction, hl]
    rw [if_pos (by rwa [← hl])]

theorem boundaryAction_suspends {seen : PublishRecord} (ha : seen.abandons = []) (hs : seen.suspend = true) :
    boundaryAction seen r s = (unitReady s, some .suspended) := by
  simp [boundaryAction, ha, hs]

theorem boundaryAction_pauses {seen : PublishRecord} (ha : seen.abandons = []) (hs : seen.suspend = false)
    (hl : s.isLocked r.handle = true) :
    boundaryAction seen r s = ({ s with pubUnit := .paused r }, some .paused) := by
  simp [boundaryAction, ha, hs, hl]

theorem boundaryAction_reads {seen : PublishRecord} {n : Nat} (ha : seen.abandons = []) (hs : seen.suspend = false)
    (hl : s.isLocked r.handle = false) (hp : s.paired? r.handle = some (w, p)) (hn : nextCopyLine w p = some n) :
    boundaryAction seen r s = ({ s with pubUnit := .reading r n }, none) := by
  simp [boundaryAction, ha, hs, hl, advance, hp, hn]

theorem boundaryAction_flips {seen : PublishRecord} (ha : seen.abandons = []) (hs : seen.suspend = false)
    (hl : s.isLocked r.handle = false) (hp : s.paired? r.handle = some (w, p)) (hk : p.work = some k)
    (hn : nextCopyLine w p = none) :
    boundaryAction seen r s = ({ s.flipped r.handle w p k r.idle with pubUnit := .ready }, some .flipped) := by
  simp [boundaryAction, ha, hs, hl, advance, hp, hn, flip_flipped hp hk]

/-- On a locked window the requests are acted on whether they come before the boundary or after it. -/
theorem boundary_locked (hl : s.isLocked r.handle = true) (early : Bool) :
    boundary early r s = boundaryAction r r s := by
  simp [boundary, hl]

/-- Requests that have all waited for this boundary are acted on whichever comes first. -/
theorem boundary_waited (ha : r.waited = r.abandons.length) (hs : r.suspendWaited = r.suspend) (early : Bool) :
    boundary early r s = boundaryAction r r s := by
  have same : r.older = r ∧ r.wait = r := by
    obtain ⟨x, bank, abandons, suspend, waited, suspendWaited⟩ := r
    dsimp only at ha hs
    subst ha hs
    exact ⟨by simp [PublishRecord.older], rfl⟩
  obtain ⟨older, wait⟩ := same
  unfold boundary
  split
  · rw [older, wait, freeAfter, if_neg]
    rintro ⟨-, hr, hn⟩
    exact hn (by rwa [older])
  · rfl

/-- With nothing requested, the last boundary flips the window, taken early or late. -/
theorem boundary_flips (ha : r.abandons = []) (hs : r.suspend = false) (hl : s.isLocked r.handle = false)
    (hp : s.paired? r.handle = some (w, p)) (hk : p.work = some k) (hn : nextCopyLine w p = none)
    (early : Bool) :
    boundary early r s = ({ s.flipped r.handle w p k r.idle with pubUnit := .ready }, some .flipped) := by
  have older : r.older.abandons = [] ∧ r.older.suspend = false := by simp [PublishRecord.older, ha, hs]
  have acts := boundaryAction_flips (r := r.wait) older.1 older.2 hl hp hk hn
  unfold boundary
  split
  · rw [acts, freeAfter, if_neg (by simp [ha])]
    rfl
  · exact boundaryAction_flips ha hs hl hp hk hn

/-! ### What the actions leave -/

theorem window?_retireAtBoundary (hw : s.window? h = some w) : (retireAtBoundary h s).window? h = none := by
  refine window?_freeWindow_same (w := w) ?_
  rw [breakWindowLock_only]
  exact hw

theorem pubUnit_retireAtBoundary (h : Handle) (s : State) : (retireAtBoundary h s).pubUnit = .ready := by
  show (freeWindow h (breakWindowLock h (unitReady s))).pubUnit = .ready
  rw [freeWindow_pubUnit, breakWindowLock_pubUnit]
  rfl

theorem paired?_merged (hp : s.paired? h = some (w, p)) :
    (s.merged h w p k).paired? h =
      some ({ w with body := .paired { p with dirty := p.dirty.union k.set, work := none } },
        { p with dirty := p.dirty.union k.set, work := none }) :=
  paired?_setPaired (p' := { p with dirty := p.dirty.union k.set, work := none }) hp

theorem paired?_flipped (bank : Bank) (hp : s.paired? h = some (w, p)) :
    (s.flipped h w p k bank).paired? h =
      some ({ w with body := .paired { p with current := bank, gen := bump p.gen, carry := k.set, work := none } },
        { p with current := bank, gen := bump p.gen, carry := k.set, work := none }) :=
  paired?_setPaired (p' := { p with current := bank, gen := bump p.gen, carry := k.set, work := none }) hp

/-! ### The completions of a line copy (R64) -/

theorem exec_lineCopyReadDone {n : Nat} (err : Bool) (hr : s.inReset = none) (hg : s.grant = some .engine)
    (hu : s.pubUnit = .reading r n) (hp : s.paired? r.handle = some (w, p))
    (hi : s.inStore (p.live.toNat + n * w.lineSize.bytes) w.lineSize.bytes = true) :
    exec (.lineCopyReadDone err) s =
      .next (arbitrate (copyReadDone r n (liveLine w p n) w.lineSize.bytes err (giveUp s))) := by
  show whenRunning (lineCopyReadDone err) s = _
  have inside : s.inStore (liveLine w p n) w.lineSize.bytes = true := hi
  simp [whenRunning_running hr, lineCopyReadDone, hg, hu, hp, inside, unitStep]

theorem exec_lineBoundary {n : Nat} {bs : List Byte} (err early : Bool) (hr : s.inReset = none)
    (hg : s.grant = some .engine) (hu : s.pubUnit = .writing r n bs) (hp : s.paired? r.handle = some (w, p))
    (hi : s.inStore (p.bankOffset r.idle + n * w.lineSize.bytes) bs.length = true) :
    exec (.lineBoundary ⟨err, early⟩) s =
      .next (arbitrate (copyWriteDone r n (bankLine w p r.idle n) bs err early (giveUp s))) := by
  show whenRunning (lineBoundary err early) s = _
  have inside : s.inStore (bankLine w p r.idle n) bs.length = true := hi
  simp [whenRunning_running hr, lineBoundary, hg, hu, hp, inside, unitStep]

/-- The state in which a line boundary is judged: the line is in the bank, the copy position past it, and the
pass has made a line copy (R64, R95). -/
def State.lineWritten (s : State) (r : PublishRecord) (n : Nat) (bs : List Byte) (w : Window) (p : Paired)
    (k : Working) : State :=
  { s with
    grant := none,
    store := Memory.write s.store (p.bankOffset r.idle + n * w.lineSize.bytes) bs,
    slots := s.slots.set r.handle.index
      { s.slot r.handle.index with
        win := some { w with body := .paired { p with work := some { k with pos := n + 1 } } } },
    engine := if s.engine.purpose = some .regular then
        { s.engine with working := s.engine.working.map fun v => { v with copied := true } }
      else s.engine }

theorem copyWriteDone_good {n : Nat} {bs : List Byte} (early : Bool) (hp : s.paired? r.handle = some (w, p))
    (hk : p.work = some k) :
    copyWriteDone r n (bankLine w p r.idle n) bs false early (giveUp s) =
      reportBoundary r.handle (boundary early r (s.lineWritten r n bs w p k)) := by
  have noted : noteCopied (storeWrite (bankLine w p r.idle n) bs (giveUp s)) =
      { s with
        grant := none,
        store := Memory.write s.store (p.bankOffset r.idle + n * w.lineSize.bytes) bs,
        engine := (s.lineWritten r n bs w p k).engine } := by
    unfold noteCopied State.lineWritten
    show (if s.engine.purpose = some .regular then _ else _) = _
    split <;> rfl
  have written : setCopyPosition r.handle (n + 1) (noteCopied (storeWrite (bankLine w p r.idle n) bs (giveUp s))) =
      s.lineWritten r n bs w p k := by
    rw [setCopyPosition_eq (n + 1) (w := w) (p := p) (k := k) (by rw [noted]; exact hp) hk, noted]
    rfl
  simp only [copyWriteDone, Bool.false_eq_true, if_false]
  rw [written]

theorem paired?_lineWritten {n : Nat} {bs : List Byte} (hp : s.paired? r.handle = some (w, p)) :
    (s.lineWritten r n bs w p k).paired? r.handle =
      some ({ w with body := .paired { p with work := some { k with pos := n + 1 } } },
        { p with work := some { k with pos := n + 1 } }) :=
  paired?_setPaired (p' := { p with work := some { k with pos := n + 1 } }) hp

end Sys2Proof.Machine

namespace Sys2Proof

open Machine

/-- Settles O42: the read's bytes are kept; the boundary judges the state with the line written. -/
theorem lineCopiesGoOnOrPause : Obligations.LineCopiesGoOnOrPause := by
  refine ⟨fun s r n w p hr hg hu hp hi => ?_, fun s r n bs w p k hr hg hu hp hk hi => ?_⟩
  · rw [exec_lineCopyReadDone false hr hg hu hp hi]
    rfl
  · intro p' t e
    have hp' : (s.lineWritten r n bs w p k).paired? r.handle = some ({ w with body := .paired p' }, p') :=
      paired?_lineWritten hp
    have done : ∀ early, exec (.lineBoundary ⟨false, early⟩) s =
        .next (arbitrate (reportBoundary r.handle (boundary early r (s.lineWritten r n bs w p k)))) :=
      fun early => by rw [exec_lineBoundary false early hr hg hu hp hi, copyWriteDone_good early hp hk]
    refine ⟨fun m ha hs hl hn => ?_, fun m ha hs hl hn => ?_, fun early ha hs hl => ?_,
      fun y hy => Memory.byte_write_other _ _ hy⟩
    · rw [done, boundary_after, boundaryAction_reads (s := s.lineWritten r n bs w p k) ha hs hl hp' hn]
      rfl
    · rw [done, boundary_before_line (s := s.lineWritten r n bs w p k) ha hs hl hp' hn]
      rfl
    · have state : (s.lineWritten r n bs w p k).engine.state = s.engine.state := by
        unfold State.lineWritten
        dsimp only
        split <;> rfl
      rw [done, boundary_locked (s := s.lineWritten r n bs w p k) hl,
        boundaryAction_pauses (s := s.lineWritten r n bs w p k) ha hs hl]
      show Host.Outcome.next (arbitrate (enterHeld { s.lineWritten r n bs w p k with pubUnit := .paused r })) = _
      simp only [enterHeld, modEngine, state]
      rfl

/-- Settles O43: the next line by the copy set, and each of the boundary's actions in its place. -/
theorem boundaryActsInOrder : Obligations.BoundaryActsInOrder := by
  refine ⟨fun w p k hk => ⟨fun n => nextCopyLine_eq_some hk, nextCopyLine_eq_none hk⟩,
    fun r w p k s hp hk => ?_⟩
  have hw := (paired?_eq_some.1 hp).1
  refine ⟨fun c cs ha hn => ⟨{ s.merged r.handle w p k with pubUnit := .ready }, ?_, rfl, paired?_merged hp, rfl,
      rfl, rfl⟩, fun ha => ⟨retireAtBoundary r.handle s, ?_, pubUnit_retireAtBoundary _ s,
      window?_retireAtBoundary hw, rfl, rfl⟩, fun ha hs => ?_, fun ha hs hl => ?_, fun ha hs hl => ⟨fun n hn => ?_,
      fun hn => ⟨{ s.flipped r.handle w p k r.idle with pubUnit := .ready }, ?_, rfl, paired?_flipped _ hp, rfl, rfl,
        rfl⟩⟩, fun hl => ?_, fun hl ha hs _ => ?_, fun hl ha hs => ⟨fun n hn => ?_, fun hn => ⟨fun hr => ?_,
      fun hr => ?_⟩⟩⟩
  · rw [boundary_after, boundaryAction_abandons ha hn, abandonPublish_merged hp hk]
  · rw [boundary_after, boundaryAction_frees ha]
  · rw [boundary_after, boundaryAction_suspends ha hs]
    rfl
  · rw [boundary_after, boundaryAction_pauses ha hs hl]
  · rw [boundary_after, boundaryAction_reads ha hs hl hp hn]
  · rw [boundary_after, boundaryAction_flips ha hs hl hp hk hn]
  · rw [boundary_locked hl, boundary_locked hl]
  · rw [boundary_waited ha hs, boundary_waited ha hs]
  · exact boundary_before_line ha hs hl hp hn
  · rw [boundary_before_flip ha hs hl hp hk hn, if_neg hr]
  · have flipped := paired?_flipped (k := k) r.idle hp
    rw [boundary_before_flip ha hs hl hp hk hn, if_pos hr]
    exact ⟨_, rfl, pubUnit_retireAtBoundary _ _, window?_retireAtBoundary (paired?_eq_some.1 flipped).1, rfl, rfl⟩

end Sys2Proof
end

section
/-! The last entry of a SINGLE pass, the line copies that fail, and the continue. -/

namespace Sys2Proof.Machine

variable {s t : State} {h : Handle} {r : PublishRecord} {w : Window} {p : Paired} {k : Working}
  {m : RegularRun} {v : WorkReport}

/-! ### The last entry of a SINGLE pass (R85, R98, R99) -/

/-- The engine publishes the last entry of a SINGLE pass, with no other work before it. -/
structure Engine.LastEntry (e : Engine) (m : RegularRun) (v : WorkReport) : Prop where
  state : e.state = .run
  purpose : e.purpose = some .regular
  mode : e.config.mode = .single
  autoUrgent : e.config.autoUrgent = false
  run : e.run = some m
  last : e.regularSeq.length = m.pos + 1
  working : e.working = some v
  context : e.context = none
  restartPass : e.restartPass = false
  regularPending : e.regularPending = false
  urgentRun : e.urgentRun = none
  urgentRequested : e.urgentRequested = false
  drainQueue : e.drainQueue = []

/-- The engine when such a pass has ended with these counts. -/
def Engine.passEnded (e : Engine) (v : WorkReport) : Engine :=
  { e with
    state := .idle, heldFrom := none, run := none, working := none, purpose := none,
    passReport := v.ended v.endStatus }

/-- An engine that finds no work enters IDLE (R85, R100). -/
theorem choiceStep_settles (hu : s.engine.urgentRun = none) (hq : s.engine.urgentRequested = false)
    (hd : s.engine.drainQueue = []) (hc : s.engine.context = none) (hr : s.engine.run = none)
    (hp : s.engine.regularPending = false) : choiceStep s = (settleIdle s, false) := by
  simp [choiceStep, hu, hq, hd, hc, hr, hp]

/-- The engine has entered IDLE with its event. -/
def State.settled (s : State) : State :=
  { s with
    engine := { s.engine with state := .idle, heldFrom := none }, events := s.events.raised .engineIdle }

/-- With no work left the choice is only that. -/
theorem boundaryChoice_settles (hp : s.pubUnit = .ready) (hs : s.engine.state ≠ .idle)
    (hc : choiceStep s = (settleIdle s, false)) :
    boundaryChoice s = s.settled := by
  rw [boundaryChoice_ends hp (by rw [hc]), hc]
  simp only [settleIdle, if_neg hs]
  rfl

/-- The pass has ended with these counts, and its run with it. -/
def State.passDone (s : State) (v : WorkReport) : State :=
  { s with
    engine := { s.engine with run := none, working := none, passReport := v.ended v.endStatus },
    events := s.events.raised .passDone }

/-- An entry that ends a SINGLE pass. -/
theorem entryEnds_last (hm : s.engine.config.mode = .single) (ha : s.engine.config.autoUrgent = false)
    (hr : s.engine.run = some m) (hl : s.engine.regularSeq.length = m.pos + 1) (hv : s.engine.working = some v) :
    entryEnds s = s.passDone v := by
  simp [entryEnds, hr, modEngine, Engine.nextEntry, hm, hl, finishPass, hv, writePass, raise, Engine.afterPass,
    runEnds, ha, EventUnit.raised, State.passDone]

/-- The report of a publish that ends a regular entry, with no SEQ and no STOP taken (R98). -/
theorem takeReport_regular {rep : UnitReport} (hp : s.engine.purpose = some .regular)
    (hs : s.engine.state ≠ .stopping) (hr : s.engine.restartPass = false) (hrep : rep ≠ .suspended) :
    takeReport h rep s =
      boundaryChoice (entryEnds { s with
        engine := { s.engine with
          purpose := none, heldFrom := none,
          working := s.engine.working.map (WorkReport.count h.index rep) } }) := by
  simp [takeReport, hp, account, modWork, modEngine, hs, conclude, hrep, hr]

/-- The report of the last entry ends the pass and, nothing else being due, the run (R85, R98, R99). -/
theorem takeReport_last (L : s.engine.LastEntry m v) (hu : s.pubUnit = .ready) {rep : UnitReport}
    (hrep : rep ≠ .suspended) :
    takeReport h rep s =
      { s with
        engine := s.engine.passEnded (v.count h.index rep),
        events := (s.events.raised .passDone).raised .engineIdle } := by
  have running : s.engine.state ≠ .stopping ∧ s.engine.state ≠ .idle := by rw [L.state]; decide
  rw [takeReport_regular L.purpose running.1 L.restartPass hrep]
  generalize ht : ({ s with
    engine := { s.engine with
      purpose := none, heldFrom := none,
      working := s.engine.working.map (WorkReport.count h.index rep) } } : State) = t
  have counted : t.engine.working = some (v.count h.index rep) := by
    subst ht
    show s.engine.working.map _ = _
    rw [L.working]
    rfl
  have last : entryEnds t = t.passDone (v.count h.index rep) := by
    subst ht
    exact entryEnds_last L.mode L.autoUrgent L.run L.last counted
  have settles : choiceStep (t.passDone (v.count h.index rep)) = (settleIdle (t.passDone (v.count h.index rep)), false) := by
    subst ht
    exact choiceStep_settles L.urgentRun L.urgentRequested L.drainQueue L.context rfl L.regularPending
  rw [last, boundaryChoice_settles (s := t.passDone (v.count h.index rep)) (by subst ht; exact hu)
    (by subst ht; exact running.2) settles]
  subst ht
  rfl

/-- Both events of the pass's end are pending. -/
theorem isPending_passEnded (h : s.events = (t.events.raised .passDone).raised .engineIdle) :
    s.isPending .passDone = true ∧ s.isPending .engineIdle = true := by
  simp [State.isPending, h, EventUnit.raised, Event.mask, Event.bit]

/-- With the unit READY and no port waiting there is nothing to grant. -/
theorem arbitrate_ready (hu : s.pubUnit = .ready) (hq : ∀ q, s.waitingAccess q = none) : arbitrate s = s :=
  arbitrate_idle hq (by simp [State.unitWaiting, hu, PubUnit.wantsStore])

/-! ### A line copy that fails (R74) -/

theorem events_offerFault (f : FaultRecord) (s : State) (e : Event) :
    raise e (offerFault f s) = { s with events := s.events.faulted e f } := by
  unfold offerFault
  cases hc : s.events.capture <;> simp [raise, EventUnit.faulted, hc]

/-- The state in which the report of a failed copy is taken: W merged back, and the fault recorded. -/
def State.copyFailed (s : State) (r : PublishRecord) (a : Nat) (write : Bool) (w : Window) (p : Paired)
    (k : Working) : State :=
  { s.merged r.handle w p k with
    pubUnit := .ready,
    events := s.events.faulted .publishFault (.lineCopy (BitVec.ofNat 32 a) write r.handle.index) }

/-- A failed copy abandons its publish, with the fault record and PUBLISH_FAULT. -/
theorem failedBoundary_abandons (a : Nat) (write : Bool) (ha : AbandonCause.retired ∉ r.abandons)
    (hp : s.paired? r.handle = some (w, p)) (hk : p.work = some k) :
    failedBoundary r a write s = (s.copyFailed r a write w p k, some (.abandoned .storeError)) := by
  simp only [failedBoundary, if_neg ha]
  rw [events_offerFault, abandonPublish_merged (s := { s with
    events := s.events.faulted .publishFault (.lineCopy (BitVec.ofNat 32 a) write r.handle.index) }) hp hk]
  rfl

/-- The failed copy of the last entry: the pass ends PARTIAL. -/
theorem reportBoundary_failed_last (a : Nat) (write : Bool) (ha : r.abandons = [])
    (hp : s.paired? r.handle = some (w, p)) (hk : p.work = some k) (L : s.engine.LastEntry m v) :
    reportBoundary r.handle (failedBoundary r a write s) =
      { s.copyFailed r a write w p k with
        engine := s.engine.passEnded (v.skip r.handle.index),
        events := ((s.copyFailed r a write w p k).events.raised .passDone).raised .engineIdle } := by
  rw [failedBoundary_abandons a write (by simp [ha]) hp hk]
  exact takeReport_last (s := s.copyFailed r a write w p k) (rep := .abandoned .storeError) L rfl (by simp)

theorem endStatus_skip (i : SlotId) (v : WorkReport) : (v.skip i).endStatus = .partly := by
  have some : v.skipped ||| BitVec.twoPow 32 i.val ≠ 0 := by
    intro h0
    have bit : (v.skipped ||| BitVec.twoPow 32 i.val).getLsbD i.val = false := by rw [h0]; simp
    simp at bit
  exact if_neg some

/-! ### The continue (R66, R131) -/

theorem exec_continuePublish (hr : s.inReset = none) (hc : 0 < s.continues) :
    exec .continuePublish s = .next (takeContinue s) := by
  show whenRunning (fun t => if t.continues = 0 then Host.Outcome.next t else .next (takeContinue t)) s = _
  rw [whenRunning_running hr, if_neg (by omega)]

theorem takeContinue_idle (hu : ∀ r, s.pubUnit ≠ .paused r) :
    takeContinue s = { s with continues := s.continues - 1 } := by
  unfold takeContinue
  cases hp : s.pubUnit with
  | paused r => exact absurd hp (hu r)
  | _ => rfl

theorem takeContinue_locked (hu : s.pubUnit = .paused r) (hl : s.isLocked r.handle = true) :
    takeContinue s = { s with continues := s.continues - 1 } := by
  simp [takeContinue, hu, hl]

theorem takeContinue_unlocked (hu : s.pubUnit = .paused r) (hl : s.isLocked r.handle = false) :
    takeContinue s = arbitrate (leavePaused r { s with continues := s.continues - 1 }) := by
  simp [takeContinue, hu, hl]

theorem leaveHeld_from {f : HeldFrom} (hf : s.engine.heldFrom = some f) :
    leaveHeld s = { s with engine := { s.engine with state := f.state, heldFrom := none } } := by
  simp [leaveHeld, modEngine, hf]

theorem leavePaused_reads {f : HeldFrom} {n : Nat} (hf : s.engine.heldFrom = some f)
    (hp : s.paired? r.handle = some (w, p)) (hn : nextCopyLine w p = some n) :
    leavePaused r s =
      { s with
        pubUnit := .reading r n, engine := { s.engine with state := f.state, heldFrom := none } } := by
  have same : (leaveHeld s).paired? r.handle = some (w, p) := hp
  have adv : advance r (leaveHeld s) = ({ leaveHeld s with pubUnit := .reading r n }, false) := by
    simp [advance, same, hn]
  unfold leavePaused
  rw [adv, leaveHeld_from hf]

theorem leavePaused_flips {f : HeldFrom} (hf : s.engine.heldFrom = some f)
    (hp : s.paired? r.handle = some (w, p)) (hk : p.work = some k) (hn : nextCopyLine w p = none) :
    leavePaused r s =
      takeReport r.handle .flipped
        { s.flipped r.handle w p k r.idle with
          pubUnit := .ready, engine := { s.engine with state := f.state, heldFrom := none } } := by
  have same : (leaveHeld s).paired? r.handle = some (w, p) := hp
  have adv : advance r (leaveHeld s) = (flip r (leaveHeld s), true) := by simp [advance, same, hn]
  unfold leavePaused
  rw [adv]
  simp only
  rw [flip_flipped same hk, leaveHeld_from hf]
  rfl

theorem HeldFrom.state_ne_stopping (f : HeldFrom) : f.state ≠ .stopping := by cases f <;> decide

/-- The report of a publish that ends an urgent entry, with no USEQ and no STOP taken (R111, R113). -/
theorem takeReport_urgent {rep : UnitReport} {u : UrgentRun} (hp : s.engine.purpose = some .urgent)
    (hs : s.engine.state ≠ .stopping) (hr : s.engine.restartUrgent = false) (hu : s.engine.urgentRun = some u) :
    takeReport h rep s =
      boundaryChoice (urgentEntryEnds { s with
        engine := { s.engine with
          purpose := none, heldFrom := none, urgentRun := some { u with work := u.work.count h.index rep },
          context := s.engine.context.map fun c =>
            if c.outcome = .adopted then { c with outcome := c.outcome.after rep } else c } }) := by
  have resolves : ∀ e : Engine, e.resolve rep = { e with context := e.context.map fun c =>
      if c.outcome = .adopted then { c with outcome := c.outcome.after rep } else c } := by
    intro e
    obtain ⟨⟩ := e
    rename_i c _ _ _ _ _
    unfold Engine.resolve
    repeat' split
    all_goals simp_all
  simp [takeReport, hp, account, modUrgent, modEngine, hs, conclude, resolves, hr, hu]

end Sys2Proof.Machine

namespace Sys2Proof

open Machine

/-- Settles O44: the flip is the pass's last report. -/
theorem lastBoundaryFlipsAndEndsThePass : Obligations.LastBoundaryFlipsAndEndsThePass := by
  intro s r n bs w p k m v hr hg hu ha hs hp hk hl hi hn h1 h2 h3 h4 h5 h6 h7 h8 h9 h10 h11 h12 h13 hq early
  generalize hb : s.lineWritten r n bs w p k = b
  have engine : b.engine = { s.engine with working := some { v with copied := true } } := by
    subst hb
    show (if _ then _ else _) = _
    rw [if_pos h2, h7]
    rfl
  have L : b.engine.LastEntry m { v with copied := true } := by
    rw [engine]
    exact ⟨h1, h2, h3, h4, h5, h6, rfl, h8, h9, h10, h11, h12, h13⟩
  let w' : Window := { w with body := .paired { p with work := some { k with pos := n + 1 } } }
  let p' : Paired := { p with work := some { k with pos := n + 1 } }
  have hp' : b.paired? r.handle = some (w', p') := by
    subst hb
    exact paired?_lineWritten hp
  have unlocked : b.isLocked r.handle = false := by
    subst hb
    exact hl
  let f : State := { b.flipped r.handle w' p' { k with pos := n + 1 } r.idle with pubUnit := .ready }
  have report : reportBoundary r.handle (boundary early r b) = takeReport r.handle .flipped f := by
    rw [boundary_flips ha hs unlocked hp' rfl hn early]
    rfl
  let t : State := { f with
    engine := b.engine.passEnded (WorkReport.publish { v with copied := true }),
    events := (b.events.raised .passDone).raised .engineIdle }
  have ends : takeReport r.handle .flipped f = t := takeReport_last (s := f) (rep := .flipped) L rfl (by simp)
  have waits : ∀ q, t.waitingAccess q = none := by
    subst hb
    exact hq
  rw [exec_lineBoundary false early hr hg hu hp hi, copyWriteDone_good early hp hk, hb, report, ends,
    arbitrate_ready rfl waits]
  obtain ⟨passDone, engineIdle⟩ := isPending_passEnded (s := t) (t := b) rfl
  refine ⟨t, rfl, rfl, ?_, ?_, paired?_flipped (k := { k with pos := n + 1 }) r.idle hp', ?_, rfl, rfl, rfl, rfl,
    rfl, passDone, engineIdle, ?_⟩
  all_goals
    subst hb
    rfl

/-- Settles O45: the read's and the write's failure alike, by the state in which the boundary finds the window. -/
theorem failedCopyAbandonsThePublish : Obligations.FailedCopyAbandonsThePublish := by
  intro s r n w p k m v hr hg ha hp hk h1 h2 h3 h4 h5 h6 h7 h8 h9 h10 h11 h12 h13 hq after
  have L : s.engine.LastEntry m v := ⟨h1, h2, h3, h4, h5, h6, h7, h8, h9, h10, h11, h12, h13⟩
  have ends : ∀ (st : List Host.Cell) (fresh a : Nat) (write : Bool),
      ∃ t, arbitrate (reportBoundary r.handle
          (failedBoundary r a write { giveUp s with store := st, fresh := fresh })) = t ∧
        after t write a ∧ t.store = st := by
    intro st fresh a write
    let u : State := { giveUp s with store := st, fresh := fresh }
    let f := u.events.faulted .publishFault (.lineCopy (BitVec.ofNat 32 a) write r.handle.index)
    let t : State := { u.merged r.handle w p k with
      pubUnit := .ready, engine := s.engine.passEnded (v.skip r.handle.index),
      events := (f.raised .passDone).raised .engineIdle }
    have report : reportBoundary r.handle (failedBoundary r a write u) = t :=
      reportBoundary_failed_last (s := u) a write ha hp hk L
    obtain ⟨passDone, -⟩ := isPending_passEnded (s := t) (t := { s with events := f }) rfl
    refine ⟨t, ?_, ⟨rfl, rfl, paired?_merged (s := u) hp, rfl, ?_, passDone, rfl, ?_⟩, rfl⟩
    · rw [report, arbitrate_ready (s := t) rfl hq]
    · simp [State.isPending, t, f, EventUnit.raised, EventUnit.faulted, Event.mask, Event.bit]
    · show (v.skip r.handle.index).ended (v.skip r.handle.index).endStatus = _
      rw [endStatus_skip]
      rfl
  refine ⟨fun hu hi => ?_, fun bs early hu hi => ?_⟩
  · rw [exec_lineCopyReadDone true hr hg hu hp hi]
    obtain ⟨t, ht, done, store⟩ := ends s.store s.fresh (p.live.toNat + n * w.lineSize.bytes) false
    exact ⟨t, by rw [← ht]; rfl, done, store⟩
  · rw [exec_lineBoundary true early hr hg hu hp hi]
    obtain ⟨t, ht, done, store⟩ := ends
      (Memory.write s.store (bankLine w p r.idle n) (unstatedBytes s.fresh (bankLine w p r.idle n) bs.length))
      (s.fresh + 1) (p.bankOffset r.idle + n * w.lineSize.bytes) true
    refine ⟨t, by rw [← ht]; rfl, done, fun y hy => ?_⟩
    rw [store]
    exact Memory.byte_write_other _ _ (by rwa [length_unstatedBytes])

/-- Settles O46: a continue taken on an unlocked window goes on with the publish, and any other is only taken. -/
theorem continueResumesThePublish : Obligations.ContinueResumesThePublish := by
  refine ⟨fun s r w p hr hc hu hp => ⟨fun n f hl hf hn => ?_, fun k f hk hl hf hn => ?_, fun hl => ?_⟩,
    fun s hr hc hu => ?_, fun s hr hc => ?_⟩
  · rw [exec_continuePublish hr hc, takeContinue_unlocked hu hl,
      leavePaused_reads (s := { s with continues := s.continues - 1 }) hf hp hn]
    rfl
  · intro g publish
    let resumed : State := { s.flipped r.handle w p k r.idle with
      continues := s.continues - 1, pubUnit := .ready,
      engine := { s.engine with state := f.state, heldFrom := none } }
    have running : resumed.engine.state ≠ .stopping := f.state_ne_stopping
    have flips : exec .continuePublish s = .next (arbitrate (takeReport r.handle .flipped resumed)) := by
      rw [exec_continuePublish hr hc, takeContinue_unlocked hu hl,
        leavePaused_flips (s := { s with continues := s.continues - 1 }) hf hp hk hn]
      rfl
    refine ⟨fun hpu hre => ?_, fun u hpu hre hur => ?_⟩
    · rw [flips, takeReport_regular (s := resumed) hpu running hre (by simp)]
      rfl
    · rw [flips, takeReport_urgent (s := resumed) hpu running hre hur]
      rfl
  · rw [exec_continuePublish hr hc, takeContinue_locked hu hl]
  · rw [exec_continuePublish hr hc, takeContinue_idle hu]
  · show whenRunning (fun t => if t.continues = 0 then Host.Outcome.next t else .next (takeContinue t)) s = _
    rw [whenRunning_running hr, if_pos hc]

end Sys2Proof
end

section
/-! The boundary that flips its window, and the sub-runs of STEPPED. -/

namespace Sys2Proof.Machine

variable {s t : State} {code cnt : BitVec 8} {h : Handle} {r : PublishRecord} {w : Window} {p : Paired}
  {k : Working} {m : RegularRun} {v : WorkReport} {n : Nat} {bs : List Byte}

/-! ### The boundary that flips its window (R64, R68) -/

/-- The window with its copy position past the line. -/
def Paired.past (p : Paired) (k : Working) (n : Nat) : Paired := { p with work := some { k with pos := n + 1 } }

/-- The state with the line written and the window flipped, when the unit reports. -/
def State.lineFlipped (s : State) (r : PublishRecord) (n : Nat) (bs : List Byte) (w : Window) (p : Paired)
    (k : Working) : State :=
  { s.flipped r.handle w p k r.idle with
    grant := none, pubUnit := .ready,
    store := Memory.write s.store (p.bankOffset r.idle + n * w.lineSize.bytes) bs,
    engine := if s.engine.purpose = some .regular then
        { s.engine with working := s.engine.working.map fun v => { v with copied := true } }
      else s.engine }

/-- The copy position has no part in what a flip leaves. -/
theorem flipped_lineWritten :
    { (s.lineWritten r n bs w p k).flipped r.handle { w with body := .paired (p.past k n) } (p.past k n)
        { k with pos := n + 1 } r.idle with pubUnit := .ready } = s.lineFlipped r n bs w p k := by
  unfold State.lineFlipped State.flipped State.lineWritten Paired.past
  by_cases hp : s.engine.purpose = some .regular <;>
    simp [hp, State.slot]

theorem paired?_lineFlipped (hp : s.paired? r.handle = some (w, p)) :
    (s.lineFlipped r n bs w p k).paired? r.handle =
      some ({ w with body := .paired { p with
          current := r.idle, gen := bump p.gen, carry := k.set, work := none } },
        { p with current := r.idle, gen := bump p.gen, carry := k.set, work := none }) :=
  paired?_flipped (s := s) r.idle hp

/-- A boundary that comes to its flip with nothing asked of it, or before what is asked but a freeing. -/
theorem exec_lineBoundary_flips (early : Bool) (hr : s.inReset = none) (hg : s.grant = some .engine)
    (hu : s.pubUnit = .writing r n bs) (hp : s.paired? r.handle = some (w, p)) (hk : p.work = some k)
    (hl : s.isLocked r.handle = false)
    (hi : s.inStore (p.bankOffset r.idle + n * w.lineSize.bytes) bs.length = true)
    (hn : nextCopyLine w (p.past k n) = none)
    (ha : r.abandons = [] ∧ r.suspend = false ∨
      early = true ∧ r.waited = 0 ∧ r.suspendWaited = false ∧ AbandonCause.retired ∉ r.abandons) :
    exec (.lineBoundary ⟨false, early⟩) s =
      .next (arbitrate (takeReport r.handle .flipped (s.lineFlipped r n bs w p k))) := by
  have hp' : (s.lineWritten r n bs w p k).paired? r.handle =
      some ({ w with body := .paired (p.past k n) }, p.past k n) := paired?_lineWritten hp
  have flips : boundary early r (s.lineWritten r n bs w p k) = (s.lineFlipped r n bs w p k, some .flipped) := by
    rw [← flipped_lineWritten]
    rcases ha with ⟨ha, hs⟩ | ⟨rfl, ha, hs, hret⟩
    · exact boundary_flips (s := s.lineWritten r n bs w p k) ha hs hl hp' rfl hn early
    · rw [boundary_before_flip (s := s.lineWritten r n bs w p k) ha hs hl hp' rfl hn, if_neg hret]
  rw [exec_lineBoundary false early hr hg hu hp hi, copyWriteDone_good early hp hk, flips]
  rfl

/-! ### Sub-runs (R96) -/

/-- The engine when a sub-run has begun at the cursor, and with cursor 0 a pass. -/
def Engine.subRun (e : Engine) : Engine :=
  { (if e.cursor = 0 then
      { e with
        passCounter := bump e.passCounter,
        working := some { number := bump e.passCounter, published := 0, skipped := 0, vacant := 0,
                          copied := false } }
    else e) with
    run := some
      { pos := e.cursor, remaining := some (min e.config.step (e.regularSeq.length - e.cursor)) } }

theorem Engine.subRun_same (e : Engine) :
    e.subRun.regularSeq = e.regularSeq ∧ e.subRun.urgentRun = e.urgentRun ∧
      e.subRun.urgentRequested = e.urgentRequested ∧ e.subRun.drainQueue = e.drainQueue ∧
      e.subRun.context = e.context := by
  unfold Engine.subRun
  split <;> exact ⟨rfl, rfl, rfl, rfl, rfl⟩

theorem Engine.subRun_working {e : Engine} (hw : 0 < e.cursor → e.working ≠ none) :
    ∃ v, e.subRun.working = some v := by
  unfold Engine.subRun
  split
  · exact ⟨_, rfl⟩
  · next hc =>
    obtain ⟨v, hv⟩ := Option.ne_none_iff_exists'.1 (hw (by omega))
    exact ⟨v, hv⟩

theorem beginRun_stepped (hm : s.engine.config.mode = .stepped)
    (hl : s.engine.regularSeq[s.engine.cursor]? = some h) (hs : 1 ≤ s.engine.config.step) :
    beginRun s = { s with engine := s.engine.subRun } := by
  obtain ⟨hlt, -⟩ := List.getElem?_eq_some_iff.1 hl
  have some : ¬ min s.engine.config.step (s.engine.regularSeq.length - s.engine.cursor) = 0 := by omega
  unfold beginRun
  rw [hm]
  simp only [beginSubRun, Engine.subRun]
  by_cases hc : s.engine.cursor = 0
  · simp only [if_pos hc]
    exact if_neg some
  · simp only [if_neg hc]
    exact if_neg some

/-- A regular trigger of a quiet engine in STEPPED begins a sub-run and the publish of its first entry. -/
theorem regularTrigger_stepped (q : s.quiet) (hu : s.pubUnit = .ready) (hm : s.engine.config.mode = .stepped)
    (hl : s.engine.regularSeq[s.engine.cursor]? = some h) (hs : 1 ≤ s.engine.config.step)
    (hv : 0 < s.engine.cursor → s.engine.working ≠ none) (hp : s.paired? h = some (w, p))
    (hk : s.isLocked h = false) (hw : p.work = none) (hn : nextCopyLine w p.take = some n) :
    regularTrigger s =
      ({ s.publishing h w p n with
          engine := { s.engine.subRun with state := .run, heldFrom := none, purpose := some .regular } },
        .begun) := by
  rw [regularTrigger_begins q, beginRun_stepped hm hl hs]
  obtain ⟨seq, urgentRun, urgentRequested, drainQueue, context⟩ := s.engine.subRun_same
  obtain ⟨v, hv⟩ := Engine.subRun_working hv
  let b : State := { s with engine := s.engine.subRun }
  have reads : choiceStep b =
      ({ b.publishing h w p n with
          engine := { b.engine with state := .run, heldFrom := none, purpose := some .regular } }, false) := by
    rw [choiceStep_regular (s := b) (urgentRun.trans q.urgentRun) (urgentRequested.trans q.urgentRequested)
        (drainQueue.trans q.drainQueue) (context.trans q.context) rfl hv
        (show b.engine.regularSeq[_]? = some h by rw [show b.engine.regularSeq = _ from seq]; exact hl),
      processRegular_starts (s := b) hp hk]
    exact startPublish_reads (s := b) .regular .run hp hw hn
  rw [boundaryChoice_ends (s := b) hu (by rw [reads]), reads]
  rfl

/-- An entry that ends within its sub-run. -/
theorem entryEnds_within {a : Nat} (hr : s.engine.run = some m) (hm : s.engine.config.mode = .stepped)
    (ha : m.remaining = some a) (h2 : 2 ≤ a) :
    entryEnds s =
      { s with engine := { s.engine with
          run := some { pos := m.pos + 1, remaining := some (a - 1) }, cursor := s.engine.cursor + 1 } } := by
  have goes : ¬ a ≤ 1 := by omega
  simp [entryEnds, hr, modEngine, Engine.nextEntry, hm, ha, goes]

/-- The sub-run has ended with its last entry. -/
def State.stepDone (s : State) : State :=
  { s with
    engine := { s.engine with run := none, cursor := s.engine.cursor + 1 },
    events := s.events.raised .stepDone }

theorem entryEnds_subRun (hr : s.engine.run = some m) (hm : s.engine.config.mode = .stepped)
    (ha : m.remaining = some 1) (hl : s.engine.cursor + 1 < s.engine.regularSeq.length) :
    entryEnds s = s.stepDone := by
  have goes : ¬ s.engine.regularSeq.length ≤ s.engine.cursor + 1 := by omega
  simp [entryEnds, hr, modEngine, Engine.nextEntry, hm, ha, endSubRun, raise, goes, State.stepDone,
    EventUnit.raised]

/-- The last sub-run of a pass ends the pass with it. -/
theorem entryEnds_stepped_last (hr : s.engine.run = some m) (hm : s.engine.config.mode = .stepped)
    (ha : m.remaining = some 1) (hl : s.engine.regularSeq.length ≤ s.engine.cursor + 1)
    (hv : s.engine.working = some v) (hau : s.engine.config.autoUrgent = false) :
    entryEnds s =
      { s.stepDone.passDone v with
        engine := { (s.stepDone.passDone v).engine with cursor := 0 } } := by
  simp [entryEnds, hr, modEngine, Engine.nextEntry, hm, ha, endSubRun, raise, hl, State.stepDone, State.passDone,
    EventUnit.raised, finishPass, hv, writePass, Engine.afterPass, runEnds, hau]

/-- A sub-run over an empty sequence ends its pass at its beginning. -/
theorem beginRun_stepped_empty (hm : s.engine.config.mode = .stepped) (hau : s.engine.config.autoUrgent = false)
    (hl : s.engine.regularSeq = []) (hc : s.engine.cursor = 0) :
    beginRun s =
      { s with
        events := (s.events.raised .stepDone).raised .passDone,
        engine := { s.engine with
          passCounter := bump s.engine.passCounter,
          passReport := { number := bump s.engine.passCounter, status := some .complete, published := 0,
                          skipped := 0, vacant := 0 },
          run := none, working := none } } := by
  unfold beginRun
  rw [hm]
  simp [beginSubRun, hc, hl, modEngine, Engine.beginPass, freshWork, endSubRun, raise, finishPass, writePass,
    Engine.afterPass, runEnds, hm, hau, EventUnit.raised, WorkReport.ended, WorkReport.endStatus, BitVec.or_assoc]

end Sys2Proof.Machine

namespace Sys2Proof

open Machine

/-- Settles O50: the sub-run's beginning at the cursor, its entries one by one, and its end. -/
theorem steppedRunsGoBySubRuns : Obligations.SteppedRunsGoBySubRuns := by
  refine ⟨fun s h w p n q hu hm hl hs hv hp hk hw hn => ?_, fun s m a hr hm ha h2 => entryEnds_within hr hm ha h2,
    fun s r n bs w p k m v hr hg hu ha hsu hp hk hl hi hn h1 h2 hm hau hrun hrem hv hc hre hpe hur huq hdq hq => ?_,
    fun cnt s ha q hu hm hau hl hc => ?_⟩
  · intro e f
    have engine : f = { s.engine.subRun with state := .run, heldFrom := none, purpose := some .regular } := rfl
    refine ⟨fun cnt ha => ?_, fun hr he => ?_, fun hr hpt => ?_⟩
    · rw [exec_start ha,
        regularTrigger_stepped (s := s.taking codeStart cnt) (q.of_engine rfl) hu hm hl hs hv hp hk hw hn]
      rfl
    · rw [exec_trigREdge hr he, regularTrigger_stepped q hu hm hl hs hv hp hk hw hn, engine]
    · have quiet : s.paced.quiet :=
        ⟨q.state, q.run, q.regularPending, q.urgentRun, q.urgentRequested, q.drainQueue, q.context⟩
      have paced : s.paced.engine.subRun =
          { s.engine.subRun with paceTimer := some (s.engine.config.pacePeriod * 100) } := by
        unfold State.paced Engine.subRun
        dsimp only [modEngine]
        split <;> rfl
      rw [exec_paceExpiry hr hpt, regularTrigger_stepped (s := s.paced) quiet hu hm hl hs hv hp hk hw hn, engine,
        paced]
      rfl
  · let u : State := { s.lineFlipped r n bs w p k with
      engine := { s.engine with
        purpose := none, heldFrom := none,
        working := some { v with published := v.published + 1, copied := true } } }
    have counted : ∀ early, exec (.lineBoundary ⟨false, early⟩) s = .next (arbitrate (boundaryChoice (entryEnds u))) := by
      intro early
      have engine : (s.lineFlipped r n bs w p k).engine =
          { s.engine with working := some { v with copied := true } } := by
        show (if _ then _ else _) = _
        rw [if_pos h2, hv]
        rfl
      rw [exec_lineBoundary_flips early hr hg hu hp hk hl hi hn (.inl ⟨ha, hsu⟩),
        takeReport_regular (by rw [engine]; exact h2) (by rw [engine, h1]; decide) (by rw [engine]; exact hre) (by simp),
        engine]
      rfl
    have busy : s.engine.state ≠ .idle := by rw [h1]; decide
    refine ⟨fun hlt early => ?_, fun hle early => ?_⟩
    · have settles : choiceStep u.stepDone = (settleIdle u.stepDone, false) :=
        choiceStep_settles hur huq hdq hc rfl hpe
      rw [counted, entryEnds_subRun (s := u) hrun hm hrem hlt, boundaryChoice_settles (s := u.stepDone) rfl busy settles,
        arbitrate_ready (s := u.stepDone.settled) rfl hq]
      exact ⟨_, rfl, rfl, rfl, rfl⟩
    · let x : State := { u.stepDone.passDone { v with published := v.published + 1, copied := true } with
        engine := { (u.stepDone.passDone { v with published := v.published + 1, copied := true }).engine with
          cursor := 0 } }
      have settles : choiceStep x = (settleIdle x, false) := choiceStep_settles hur huq hdq hc rfl hpe
      have ends : entryEnds u = x := entryEnds_stepped_last hrun hm hrem hle rfl hau
      rw [counted, ends, boundaryChoice_settles (s := x) rfl busy settles,
        arbitrate_ready (s := x.settled) rfl hq]
      exact ⟨_, rfl, rfl, rfl, rfl⟩
  · rw [exec_start ha, regularTrigger_begins (s := s.taking codeStart cnt) (q.of_engine rfl),
      beginRun_stepped_empty (s := s.taking codeStart cnt) hm hau hl hc]
    rw [boundaryChoice_quiet]
    · rfl
    · exact ⟨q.state, rfl, q.regularPending, q.urgentRun, q.urgentRequested, q.drainQueue, q.context⟩

end Sys2Proof
end

section
/-! Urgent runs: their end, USEQ during one, and the run that it begins. -/

namespace Sys2Proof.Machine

variable {s t : State} {code cnt : BitVec 8} {h x : Handle} {r : PublishRecord} {w v : Window} {p q : Paired}
  {k : Working} {u : UrgentRun} {n i : Nat} {bs : List Byte}

/-! ### The boundary that abandons its publish (R64, R72) -/

/-- The state with the line written and W merged back, when the unit reports. -/
def State.lineAbandoned (s : State) (r : PublishRecord) (n : Nat) (bs : List Byte) (w : Window) (p : Paired)
    (k : Working) : State :=
  { s.merged r.handle w p k with
    grant := none, pubUnit := .ready,
    store := Memory.write s.store (p.bankOffset r.idle + n * w.lineSize.bytes) bs,
    engine := if s.engine.purpose = some .regular then
        { s.engine with working := s.engine.working.map fun v => { v with copied := true } }
      else s.engine }

/-- The copy position has no part in what a merge leaves. -/
theorem merged_lineWritten :
    { (s.lineWritten r n bs w p k).merged r.handle { w with body := .paired (p.past k n) } (p.past k n)
        { k with pos := n + 1 } with pubUnit := .ready } = s.lineAbandoned r n bs w p k := by
  unfold State.lineAbandoned State.merged State.lineWritten Paired.past
  by_cases hp : s.engine.purpose = some .regular <;>
    simp [hp, State.slot]

theorem exec_lineBoundary_abandons {c : AbandonCause} {cs : List AbandonCause} (hr : s.inReset = none)
    (hg : s.grant = some .engine) (hu : s.pubUnit = .writing r n bs) (hp : s.paired? r.handle = some (w, p))
    (hk : p.work = some k) (hi : s.inStore (p.bankOffset r.idle + n * w.lineSize.bytes) bs.length = true)
    (ha : r.abandons = c :: cs) (hn : AbandonCause.retired ∉ r.abandons) :
    exec (.lineBoundary ⟨false, false⟩) s =
      .next (arbitrate (takeReport r.handle (.abandoned c) (s.lineAbandoned r n bs w p k))) := by
  have hp' : (s.lineWritten r n bs w p k).paired? r.handle =
      some ({ w with body := .paired (p.past k n) }, p.past k n) := paired?_lineWritten hp
  rw [exec_lineBoundary false false hr hg hu hp hi, copyWriteDone_good false hp hk, boundary_after,
    boundaryAction_abandons ha hn, abandonPublish_merged (s := s.lineWritten r n bs w p k) hp' rfl,
    merged_lineWritten]
  rfl

/-! ### Other windows -/

theorem paired?_setPaired_other {p' : Paired} (hp : s.paired? h = some (w, p)) (hx : x ≠ h) :
    (s.setPaired h.index w p').paired? x = s.paired? x := by
  unfold State.paired?
  rw [window?_setPaired p' hp, if_neg hx]

theorem paired?_publishing_other (hp : s.paired? h = some (w, p)) (hx : x ≠ h) :
    (s.publishing h w p n).paired? x = s.paired? x :=
  paired?_setPaired_other (p' := { p with work := some { set := p.dirty, pos := 0 }, dirty := .lines [] }) hp hx

theorem paired?_merged_other (hp : s.paired? h = some (w, p)) (hx : x ≠ h) :
    (s.merged h w p k).paired? x = s.paired? x :=
  paired?_setPaired_other (p' := { p with dirty := p.dirty.union k.set, work := none }) hp hx

theorem paired?_flipped_other {bank : Bank} (hp : s.paired? h = some (w, p)) (hx : x ≠ h) :
    (s.flipped h w p k bank).paired? x = s.paired? x :=
  paired?_setPaired_other
    (p' := { p with current := bank, gen := bump p.gen, carry := k.set, work := none }) hp hx

/-! ### The choice of an urgent entry (R111, R113) -/

theorem processUrgent_adopts (hp : s.paired? h = some (w, p)) (hl : s.isLocked h = false) :
    processUrgent h s =
      startPublish .urgent .urgent h { s with engine := s.engine.adopt h } := by
  simp only [processUrgent, hp, hl]
  rfl

theorem Engine.adopt_none {e : Engine} (hc : e.context = none) : e.adopt h = e := by
  simp [Engine.adopt, hc]

theorem Engine.adopt_other {e : Engine} {c : SuspendedCtx} (hc : e.context = some c) (hn : c.handle ≠ h) :
    e.adopt h = e := by
  simp [Engine.adopt, hc, hn]

/-- The publish of the window begins, or goes on with the W it kept. -/
def State.startedOn (s : State) (h : Handle) (w : Window) (p : Paired) (n : Nat) : State :=
  { s.setPaired h.index w p.take with pubUnit := .reading (newRecord h p) n }

/-- A window without a W takes D into it. -/
theorem startedOn_fresh (hw : q.work = none) : s.startedOn h v q i = s.publishing h v q i := by
  simp only [State.startedOn, Paired.take, Paired.startWork, hw]
  rfl

/-- The choice begins the publish of the urgent entry at hand, with the context adopted if it is of its
window. -/
theorem choiceStep_urgent_starts (hu : s.engine.urgentRun = some u) (hl : s.engine.urgentList[u.pos]? = some h)
    (hp : s.paired? h = some (v, q)) (hk : s.isLocked h = false) (hn : nextCopyLine v q.take = some i) :
    choiceStep s =
      ({ s.startedOn h v q i with
          engine := { s.engine.adopt h with state := .urgent, heldFrom := none, purpose := some .urgent } },
        false) := by
  rw [choiceStep_urgent hu hl, processUrgent_adopts hp hk]
  exact startPublish_goes_on (s := { s with engine := s.engine.adopt h }) .urgent .urgent hp hn

theorem boundaryChoice_urgent (hr : s.pubUnit = .ready) (hu : s.engine.urgentRun = some u)
    (hl : s.engine.urgentList[u.pos]? = some h) (hp : s.paired? h = some (v, q)) (hk : s.isLocked h = false)
    (hn : nextCopyLine v q.take = some i) :
    boundaryChoice s =
      { s.startedOn h v q i with
        engine := { s.engine.adopt h with state := .urgent, heldFrom := none, purpose := some .urgent } } := by
  have reads := choiceStep_urgent_starts hu hl hp hk hn
  rw [boundaryChoice_ends hr (by rw [reads]), reads]

/-! ### The end of an urgent run (R107, R111) -/

/-- The urgent run has ended with its last entry. -/
def State.urgentDone (s : State) (u : UrgentRun) : State :=
  { s with
    engine := { s.engine with urgentRun := none, urgentReport := u.work.ended u.work.endStatus },
    events := s.events.raised .urgentDone }

/-- The urgent run has ended ABORTED. -/
def State.urgentAborted (s : State) (u : UrgentRun) : State :=
  { s with
    engine := { s.engine with restartUrgent := false, urgentRun := none, urgentReport := u.work.aborted },
    events := s.events.raised .urgentDone }

theorem urgentEntryEnds_last (hu : s.engine.urgentRun = some u) (hl : s.engine.urgentList.length = u.pos + 1) :
    urgentEntryEnds s = s.urgentDone u := by
  simp [urgentEntryEnds, hu, modEngine, hl, writeUrgent, raise, State.urgentDone, EventUnit.raised]

theorem writeUrgent_aborted (hu : s.engine.urgentRun = some u) :
    modEngine (fun e => { e with restartUrgent := false }) (writeUrgent .aborted s) = s.urgentAborted u := by
  simp only [writeUrgent, hu]
  rfl

theorem restartUrgent_alone (hu : s.engine.urgentRun = some u) (b : Bool) (hc : b = false ∨ s.engine.context = none) :
    restartUrgent b s = beginUrgent (s.urgentAborted u) := by
  have same : (s.urgentAborted u).engine.context = s.engine.context := rfl
  simp only [restartUrgent, writeUrgent_aborted hu, same]
  cases hx : s.engine.context with
  | none => rfl
  | some c =>
    rcases hc with rfl | hc
    · rfl
    · rw [hx] at hc
      cases hc

theorem restartUrgent_counts {c : SuspendedCtx} (hu : s.engine.urgentRun = some u) (hc : s.engine.context = some c) :
    restartUrgent true s = beginUrgent (countContext c (c.outcome == .published) (s.urgentAborted u)) := by
  have same : (s.urgentAborted u).engine.context = some c := hc
  simp only [restartUrgent, writeUrgent_aborted hu, same]
  rfl

/-- The engine with a new urgent run (R111). -/
def Engine.urgentBegun (e : Engine) : Engine :=
  { e with
    urgentRequested := false, urgentCounter := bump e.urgentCounter,
    urgentRun := some
      { pos := 0,
        work := { number := bump e.urgentCounter, published := 0, skipped := 0, vacant := 0, copied := false } } }

theorem beginUrgent_over (hl : s.engine.urgentList ≠ []) :
    beginUrgent s = { s with engine := s.engine.urgentBegun } := by
  simp [beginUrgent, modEngine, hl, freshWork, Engine.urgentBegun]

theorem beginUrgent_empty (hl : s.engine.urgentList = []) :
    beginUrgent s =
      { s with
        events := s.events.raised .urgentDone,
        engine := { s.engine with
          urgentRequested := false, urgentCounter := bump s.engine.urgentCounter, urgentRun := none,
          urgentReport := { number := bump s.engine.urgentCounter, status := some .complete,
                            published := 0, skipped := 0, vacant := 0 } } } := by
  simp [beginUrgent, modEngine, hl, freshWork, writeUrgent, raise, EventUnit.raised, WorkReport.ended]

/-- An urgent publish that ends, no context being set aside. -/
theorem takeReport_urgent_alone {rep : UnitReport} (hp : s.engine.purpose = some .urgent)
    (hs : s.engine.state ≠ .stopping) (hr : s.engine.restartUrgent = false) (hu : s.engine.urgentRun = some u)
    (hc : s.engine.context = none) :
    takeReport h rep s =
      boundaryChoice (urgentEntryEnds { s with
        engine := { s.engine with
          purpose := none, heldFrom := none,
          urgentRun := some { u with work := u.work.count h.index rep } } }) := by
  rw [takeReport_urgent hp hs hr hu]
  simp only [hc, Option.map_none]

/-- An urgent publish that ends after a USEQ, no context being set aside (R107). -/
theorem takeReport_restarts {rep : UnitReport} (hp : s.engine.purpose = some .urgent)
    (hs : s.engine.state ≠ .stopping) (hr : s.engine.restartUrgent = true) (hu : s.engine.urgentRun = some u)
    (hc : s.engine.context = none) :
    takeReport h rep s =
      boundaryChoice (beginUrgent { s with
        events := s.events.raised .urgentDone,
        engine := { s.engine with
          purpose := none, heldFrom := none, restartUrgent := false, urgentRun := none,
          urgentReport := (u.work.count h.index rep).aborted } }) := by
  let t : State := modUrgent (WorkReport.count h.index rep)
    (modEngine (fun e => { e with purpose := none, heldFrom := none }) s)
  have run : t.engine.urgentRun = some { u with work := u.work.count h.index rep } := by
    show s.engine.urgentRun.map _ = _
    rw [hu]
    rfl
  have context : t.engine.context = none := hc
  have resolved : modEngine (fun e => e.resolve rep) t = t := by simp [modEngine, Engine.resolve, context]
  have restarts : t.engine.restartUrgent = true := hr
  have taken : takeReport h rep s = boundaryChoice (conclude .urgent h rep t) := by
    simp only [takeReport, hp]
    exact if_neg hs
  have ends : conclude .urgent h rep t = beginUrgent (t.urgentAborted { u with work := u.work.count h.index rep }) := by
    simp only [conclude, resolved, restarts, if_true]
    exact restartUrgent_alone run _ (.inr context)
  rw [taken, ends]
  rfl

/-! ### USEQ (R106, R107) -/

theorem exec_useq (ha : s.accepts) :
    exec (.useq cnt) s = .next (arbitrate (useqCommand cnt (s.taking codeUseq cnt))) :=
  takeCommand_taking (f := fun t => arbitrate (useqCommand cnt t)) ha

theorem useqCommand_listed {l : List Handle} (hc : cnt.toNat ≤ 4) (hl : oprEntries s cnt.toNat = some l) :
    useqCommand cnt s = useqEffect (complete .done [] (modEngine (fun e => { e with urgentList := l }) s)) := by
  simp [useqCommand, Nat.not_lt.2 hc, hl]

/-- A USEQ that finds an urgent run with its publish copying asks for an abandon. -/
theorem useqEffect_asks (hu : s.engine.urgentRun ≠ none) (hs : s.engine.state ≠ .held) :
    useqEffect s = requestAbandon .useq (modEngine (fun e => { e with restartUrgent := true }) s) := by
  obtain ⟨u, hu⟩ := Option.ne_none_iff_exists'.1 hu
  simp [useqEffect, hu, hs]

theorem requestAbandon_reading (c : AbandonCause) (hu : s.pubUnit = .reading r n) :
    requestAbandon c s = { s with pubUnit := .reading { r with abandons := r.abandons ++ [c] } n } := by
  simp [requestAbandon, hu]

theorem requestAbandon_writing (c : AbandonCause) (hu : s.pubUnit = .writing r n bs) :
    requestAbandon c s = { s with pubUnit := .writing { r with abandons := r.abandons ++ [c] } n bs } := by
  simp [requestAbandon, hu]

/-- What a boundary leaves of the engine of a publish that is not regular. -/
theorem engine_lineFlipped (hp : s.engine.purpose ≠ some .regular) :
    (s.lineFlipped r n bs w p k).engine = s.engine := if_neg hp

theorem engine_lineAbandoned (hp : s.engine.purpose ≠ some .regular) :
    (s.lineAbandoned r n bs w p k).engine = s.engine := if_neg hp

end Sys2Proof.Machine

namespace Sys2Proof

open Machine

/-- Settles O48: the run's last report, the restart after a USEQ, and a run's beginning. -/
theorem urgentRunsEndAndUseqRestartsThem : Obligations.UrgentRunsEndAndUseqRestartsThem := by
  refine ⟨fun s r n bs w p k u hr hg hu hp hk hi h1 h2 h3 hc hrq hq => ⟨fun ha hs hl hn hre hlast hrun hpe hdq early =>
      ?_, fun hret hw hsw hl hre hn => ?_, fun ha hre h l v q x hlist hne hpq hlq hqw hx => ?_⟩,
    fun cnt s l ha hcnt hl hrun hs => ?_, fun s u hu => ?_, fun s => ⟨beginUrgent_over, beginUrgent_empty⟩⟩
  · have urgent : s.engine.purpose ≠ some .regular := by rw [h2]; decide
    have running : s.engine.state ≠ .stopping ∧ s.engine.state ≠ .idle := by rw [h1]; decide
    have engine := engine_lineFlipped (r := r) (n := n) (bs := bs) (w := w) (p := p) (k := k) urgent
    let c : State := { s.lineFlipped r n bs w p k with
      engine := { s.engine with
        purpose := none, heldFrom := none, urgentRun := some { u with work := u.work.publish } } }
    have counted : takeReport r.handle .flipped (s.lineFlipped r n bs w p k) = boundaryChoice (urgentEntryEnds c) := by
      rw [takeReport_urgent_alone (u := u) (by rw [engine]; exact h2) (by rw [engine]; exact running.1)
        (by rw [engine]; exact hre) (by rw [engine]; exact h3) (by rw [engine]; exact hc), engine]
      rfl
    let d : State := c.urgentDone { u with work := u.work.publish }
    have ends : urgentEntryEnds c = d := urgentEntryEnds_last rfl hlast
    have settles : choiceStep d = (settleIdle d, false) := choiceStep_settles rfl hrq hdq hc hrun hpe
    rw [exec_lineBoundary_flips early hr hg hu hp hk hl hi hn (.inl ⟨ha, hs⟩), counted, ends,
      boundaryChoice_settles (s := d) rfl running.2 settles, arbitrate_ready (s := d.settled) rfl hq]
    exact ⟨_, rfl, rfl, rfl, paired?_lineFlipped (s := s) (n := n) (bs := bs) hp, rfl, rfl, rfl⟩
  · have urgent : s.engine.purpose ≠ some .regular := by rw [h2]; decide
    have engine := engine_lineFlipped (r := r) (n := n) (bs := bs) (w := w) (p := p) (k := k) urgent
    rw [exec_lineBoundary_flips true hr hg hu hp hk hl hi hn (.inr ⟨rfl, hw, hsw, hret⟩),
      takeReport_restarts (u := u) (by rw [engine]; exact h2) (by rw [engine, h1]; decide)
        (by rw [engine]; exact hre) (by rw [engine]; exact h3) (by rw [engine]; exact hc), engine]
    rfl
  · have urgent : s.engine.purpose ≠ some .regular := by rw [h2]; decide
    have engine := engine_lineAbandoned (r := r) (n := n) (bs := bs) (w := w) (p := p) (k := k) urgent
    let b : State := { s.lineAbandoned r n bs w p k with
      events := s.events.raised .urgentDone,
      engine := ({ s.engine with
        purpose := none, heldFrom := none, restartUrgent := false, urgentRun := none,
        urgentReport := u.work.aborted } : Engine).urgentBegun }
    have restarts : takeReport r.handle (.abandoned .useq) (s.lineAbandoned r n bs w p k) = boundaryChoice b := by
      rw [takeReport_restarts (u := u) (by rw [engine]; exact h2) (by rw [engine, h1]; decide)
        (by rw [engine]; exact hre) (by rw [engine]; exact h3) (by rw [engine]; exact hc), engine,
        beginUrgent_over (by rw [show _ = h :: l from hlist]; simp)]
      rfl
    have listed : b.engine.urgentList[0]? = some h := by
      show s.engine.urgentList[0]? = some h
      rw [hlist]
      rfl
    have matched : b.paired? h = some (v, q) := (paired?_merged_other (s := s) hp hne).trans hpq
    have same : b.engine.adopt h = b.engine := Engine.adopt_none hc
    have begins := boundaryChoice_urgent (s := b) rfl rfl listed matched hlq hx
    rw [exec_lineBoundary_abandons hr hg hu hp hk hi ha (by rw [ha]; decide), restarts, begins, same,
      startedOn_fresh hqw]
    let t : State := { b.publishing h v q x with
      engine := { b.engine with state := .urgent, heldFrom := none, purpose := some .urgent } }
    have kept : ({ s.engine with state := .urgent, purpose := some .urgent, urgentRequested := false } : Engine) =
        s.engine := by rw [← h1, ← h2, ← hrq]
    rw [arbitrate_unported (s := t) rfl hq rfl]
    refine ⟨_, rfl, ?_, rfl, ?_, rfl⟩
    · exact (paired?_publishing_other (s := b) (n := x) matched (Ne.symm hne)).trans (paired?_merged (s := s) hp)
    · conv_rhs => rw [← kept]
      rfl
  · intro e
    have effect : exec (.useq cnt) s = .next (arbitrate (requestAbandon .useq
        { s with engine := e, cmd := s.cmd.completed codeUseq cnt .done [] })) := by
      rw [exec_useq ha, useqCommand_listed (s := s.taking codeUseq cnt) hcnt hl,
        useqEffect_asks (s := complete .done [] (modEngine (fun e => { e with urgentList := l }) (s.taking codeUseq cnt)))
          hrun (by show s.engine.state ≠ _; rw [hs]; decide)]
      rfl
    refine ⟨fun r n hu => ?_, fun r n bs hu => ?_⟩
    · rw [effect, requestAbandon_reading (s := { s with
        engine := e, cmd := s.cmd.completed codeUseq cnt .done [] }) .useq hu]
    · rw [effect, requestAbandon_writing (s := { s with
        engine := e, cmd := s.cmd.completed codeUseq cnt .done [] }) .useq hu]
  · intro g
    refine ⟨restartUrgent_alone hu false (.inl rfl), fun c hc => ⟨fun ho => ?_, fun ho => ?_⟩⟩
    · rw [restartUrgent_counts hu hc, ho]
      rfl
    · have other : (c.outcome == .published) = false := by simpa using ho
      rw [restartUrgent_counts hu hc, other]
      rfl

end Sys2Proof
end

section
/-! Drains: the publish of a draining window, its flip, its failures and the freeing. -/

namespace Sys2Proof.Machine

variable {s t u : State} {cnt : BitVec 8} {h : Handle} {r : PublishRecord} {w : Window} {p : Paired}
  {k : Working} {n : Nat} {o : DrainOutcome} {hs : List Handle}

/-! ### The choice of a drain (R100, R116) -/

/-- A choice that is made twice. -/
theorem boundaryChoice_twice (hr : s.pubUnit = .ready) (h1 : choiceStep s = (t, true))
    (h2 : choiceStep t = (u, false)) : boundaryChoice s = u := by
  simp only [boundaryChoice, hr, if_true]
  rw [choiceLoop_again (by rw [h1]), h1, choiceLoop_ends (by rw [h2]), h2]

/-- The choice begins the publish of the first window of the queue, with something left to publish. -/
theorem boundaryChoice_drain_starts (hr : s.pubUnit = .ready) (hu : s.engine.urgentRun = none)
    (hq : s.engine.urgentRequested = false) (hd : s.engine.drainQueue = h :: hs) (hc : s.engine.context = none)
    (hp : s.paired? h = some (w, p)) (hl : p.drained = false) (hn : nextCopyLine w p.take = some n) :
    boundaryChoice s =
      { s.startedOn h w p n with
        engine := { s.engine with state := .drain, heldFrom := none, purpose := some .drain } } := by
  have alone : modEngine (fun e => e.adopt h) s = s := by simp [modEngine, Engine.adopt, hc]
  have reads : choiceStep s = ({ s.startedOn h w p n with
      engine := { s.engine with state := .drain, heldFrom := none, purpose := some .drain } }, false) := by
    rw [choiceStep_drain hu hq hd]
    simp only [drainStep, hp, hl, alone]
    exact startPublish_goes_on .drain .drain hp hn
  rw [boundaryChoice_ends hr (by rw [reads]), reads]

theorem drained_iff : p.drained = true ↔ p.work = none ∧ p.dirty = .lines [] := by
  simp [Paired.drained]

/-- An engine with nothing to do but the drain of one window. -/
structure Engine.DrainsOnly (e : Engine) (h : Handle) : Prop where
  state : e.state ≠ .idle
  urgentRun : e.urgentRun = none
  urgentRequested : e.urgentRequested = false
  drainQueue : e.drainQueue = [h]
  context : e.context = none
  run : e.run = none
  regularPending : e.regularPending = false

/-- That window freed, the engine has nothing to do. -/
theorem choiceStep_drainFree (d : s.engine.DrainsOnly h) (hw : s.window? h = some w) :
    choiceStep (drainFree o h s) = ((drainFree o h s).settled, false) := by
  have engine : (drainFree o h s).engine = { s.engine with drainQueue := [] } := by
    rw [drainFree_only o hw, d.drainQueue]
    simp
  have busy : (drainFree o h s).engine.state ≠ .idle := by
    rw [engine]
    exact d.state
  rw [choiceStep_settles (by rw [engine]; exact d.urgentRun) (by rw [engine]; exact d.urgentRequested)
    (by rw [engine]) (by rw [engine]; exact d.context) (by rw [engine]; exact d.run)
    (by rw [engine]; exact d.regularPending), settleIdle, if_neg busy]
  rfl

/-- What a drain's freeing leaves, the engine having entered IDLE. -/
theorem settled_drainFree (d : s.engine.DrainsOnly h) (hw : s.window? h = some w) :
    (drainFree o h s).settled =
      { s with
        slots := (freeWindow h s).slots, free := s.free + w.marks,
        urgency := urgencyAfter s.engine.config.urgeOn s.engine.config.urgeOff (s.free + w.marks) s.urgency,
        guards := s.guards.map (keepGuard h),
        engine := { s.engine with drainQueue := [], state := .idle, heldFrom := none },
        events := { s.events with
          pending := s.events.pending ||| Event.windowFreed.mask ||| Event.engineIdle.mask,
          retireReport := { index := h.index, inst := h.inst, outcome := some o } } } := by
  rw [State.settled, drainFree_only o hw, d.drainQueue]
  simp [EventUnit.raised]

/-! ### The report of a drain publish (R116, R117) -/

theorem resolve_alone {rep : UnitReport} (hc : s.engine.context = none) :
    modEngine (fun e => e.resolve rep) s = s := by
  simp [modEngine, Engine.resolve, hc]

/-- The engine when it has taken a report. -/
def State.reported (s : State) : State :=
  { s with engine := { s.engine with purpose := none, heldFrom := none } }

theorem takeReport_drain {rep : UnitReport} (hp : s.engine.purpose = some .drain)
    (ht : account .drain h rep s.reported = t) (hs : t.engine.state ≠ .stopping) (hc : t.engine.context = none) :
    takeReport h rep s = boundaryChoice t := by
  have ends : conclude .drain h rep t = t := resolve_alone hc
  have taken : takeReport h rep s =
      if (account .drain h rep s.reported).engine.state = .stopping then stopEnd (account .drain h rep s.reported)
      else boundaryChoice (conclude .drain h rep (account .drain h rep s.reported)) := by
    simp only [takeReport, hp]
    rfl
  rw [taken, ht, if_neg hs, ends]

theorem account_drain_flipped (h : Handle) (s : State) : account .drain h .flipped s = s := by
  simp [account]

theorem account_drain_failed (h : Handle) (s : State) :
    account .drain h (.abandoned .storeError) s = drainFailure h s := by
  simp [account]

/-- The first failure takes the window to the queue's tail. -/
theorem drainFailure_first (hd : s.engine.drainQueue = h :: hs) (hp : s.paired? h = some (w, p))
    (ha : p.drain = some 0) :
    drainFailure h s =
      { s.setPaired h.index w { p with drain := some 1 } with
        engine := { s.engine with drainQueue := hs ++ [h] } } := by
  simp only [drainFailure, hd, hp, ha]
  rfl

/-- The second one frees it. -/
theorem drainFailure_second (hd : s.engine.drainQueue = h :: hs) (hp : s.paired? h = some (w, p))
    (ha : p.drain = some 1) : drainFailure h s = drainFree .flushFailed h s := by
  simp [drainFailure, hd, hp, ha]

/-- The next line hangs on the line count, W and C. -/
theorem nextCopyLine_congr {v : Window} {q : Paired} (hc : v.lineCount = w.lineCount) (hk : q.work = p.work)
    (hy : q.carry = p.carry) : nextCopyLine v q = nextCopyLine w p := by
  simp only [nextCopyLine, hc, hk, hy]

theorem take_fresh (hw : p.work = none) :
    p.take = { p with work := some { set := p.dirty, pos := 0 }, dirty := .lines [] } := by
  simp only [Paired.take, Paired.startWork, hw]

/-- The record as a publish begins, after a change of the record. -/
theorem publishing_setPaired {p' : Paired} :
    (s.setPaired h.index w p').publishing h { w with body := .paired p' } p' n = s.publishing h w p' n := by
  simp [State.publishing, State.setPaired, State.setWindow, State.setSlot, State.slot]

theorem paired?_publishing (hp : s.paired? h = some (w, p)) :
    (s.publishing h w p n).paired? h =
      some ({ w with body := .paired { p with work := some { set := p.dirty, pos := 0 }, dirty := .lines [] } },
        { p with work := some { set := p.dirty, pos := 0 }, dirty := .lines [] }) :=
  paired?_setPaired (p' := { p with work := some { set := p.dirty, pos := 0 }, dirty := .lines [] }) hp

/-! ### What a drain's end and a drain's beginning leave -/

/-- The window freed with its outcome, and the engine IDLE. -/
structure DrainEnded (o : DrainOutcome) (h : Handle) (w : Window) (s t : State) : Prop where
  slot : t.slot h.index = { inst := h.inst, win := none }
  free : t.free = s.free + w.marks
  pubUnit : t.pubUnit = .ready
  engine : t.engine = { s.engine with drainQueue := [], state := .idle, heldFrom := none }
  report : t.events.retireReport = { index := h.index, inst := h.inst, outcome := some o }
  freed : t.isPending .windowFreed = true
  idle : t.isPending .engineIdle = true
  cmd : t.cmd = s.cmd
  store : t.store = s.store
  capture : t.events.capture = s.events.capture
  faulted : s.isPending .publishFault = true → t.isPending .publishFault = true

/-- The publish of the draining window begun with all of its D. -/
structure DrainBegun (h : Handle) (w : Window) (p : Paired) (n : Nat) (s t : State) : Prop where
  pubUnit : t.pubUnit = .reading (newRecord h p) n
  paired : t.paired? h =
    some ({ w with body := .paired { p with work := some { set := p.dirty, pos := 0 }, dirty := .lines [] } },
      { p with work := some { set := p.dirty, pos := 0 }, dirty := .lines [] })
  engine : t.engine = { s.engine with state := .drain, heldFrom := none, purpose := some .drain }
  cmd : t.cmd = s.cmd
  store : t.store = s.store
  events : t.events = s.events

theorem drainFree_ends (o : DrainOutcome) (d : s.engine.DrainsOnly h) (hu : s.pubUnit = .ready)
    (hw : s.window? h = some w) (hq : ∀ q, s.waitingAccess q = none) :
    DrainEnded o h w s (arbitrate (drainFree o h s).settled) := by
  rw [settled_drainFree d hw, arbitrate_ready (s := { s with
    slots := (freeWindow h s).slots, free := s.free + w.marks,
    urgency := urgencyAfter s.engine.config.urgeOn s.engine.config.urgeOff (s.free + w.marks) s.urgency,
    guards := s.guards.map (keepGuard h),
    engine := { s.engine with drainQueue := [], state := .idle, heldFrom := none },
    events := { s.events with
      pending := s.events.pending ||| Event.windowFreed.mask ||| Event.engineIdle.mask,
      retireReport := { index := h.index, inst := h.inst, outcome := some o } } }) hu hq]
  refine ⟨slot_freeWindow_same hw, rfl, hu, rfl, rfl, ?_, ?_, rfl, rfl, rfl, fun hp => ?_⟩
  · simp [State.isPending, Event.mask, Event.bit]
  · simp [State.isPending, Event.mask, Event.bit]
  · have pending : s.events.pending.getLsbD Event.publishFault.bit = true := hp
    simp [State.isPending, pending]

/-- A window with nothing left is freed by the choice itself. -/
theorem boundaryChoice_drain_ends (d : s.engine.DrainsOnly h) (hu : s.pubUnit = .ready)
    (hp : s.paired? h = some (w, p)) (hw : p.work = none) (hd : p.dirty = .lines []) :
    boundaryChoice s = (drainFree .clean h s).settled :=
  boundaryChoice_twice hu
    (by rw [choiceStep_drain d.urgentRun d.urgentRequested d.drainQueue, drainStep_clean hp hw hd])
    (choiceStep_drainFree d (paired?_eq_some.1 hp).1)

/-- A window freed at its second failure leaves the engine nothing to do. -/
theorem boundaryChoice_drainFree (d : s.engine.DrainsOnly h) (hu : s.pubUnit = .ready) (hw : s.window? h = some w) :
    boundaryChoice (drainFree o h s) = (drainFree o h s).settled := by
  have ready : (drainFree o h s).pubUnit = .ready := by rw [drainFree_only o hw]; exact hu
  rw [boundaryChoice_ends ready (by rw [choiceStep_drainFree d hw]), choiceStep_drainFree d hw]

theorem boundaryChoice_drain_begins (d : s.engine.DrainsOnly h) (hu : s.pubUnit = .ready) (hg : s.grant = none)
    (hp : s.paired? h = some (w, p)) (hw : p.work = none) (hd : p.dirty ≠ .lines [])
    (hn : nextCopyLine w { p with work := some { set := p.dirty, pos := 0 }, dirty := .lines [] } = some n)
    (hq : ∀ q, s.waitingAccess q = none) : DrainBegun h w p n s (arbitrate (boundaryChoice s)) := by
  have left : p.drained = false := by simp [Paired.drained, hd]
  have begins := boundaryChoice_drain_starts hu d.urgentRun d.urgentRequested d.drainQueue d.context hp left
    (by rw [take_fresh hw]; exact hn)
  rw [begins, startedOn_fresh hw, arbitrate_unported (s := { s.publishing h w p n with
    engine := { s.engine with state := .drain, heldFrom := none, purpose := some .drain } }) hg hq rfl]
  exact ⟨rfl, paired?_publishing (n := n) hp, rfl, rfl, rfl, rfl⟩

theorem isPending_copyFailed (a : Nat) (write : Bool) :
    (s.copyFailed r a write w p k).isPending .publishFault = true := by
  simp [State.copyFailed, State.isPending, EventUnit.faulted, Event.mask, Event.bit]

/-- A failed copy of a drain publish is a drain failure. -/
theorem reportBoundary_drain_failed {a : Nat} {write : Bool} (ha : r.abandons = [])
    (hp : s.paired? r.handle = some (w, p)) (hk : p.work = some k) (hd : s.engine.purpose = some .drain)
    (ht : drainFailure r.handle (s.copyFailed r a write w p k).reported = t)
    (hs : t.engine.state ≠ .stopping) (hc : t.engine.context = none) :
    reportBoundary r.handle (failedBoundary r a write s) = boundaryChoice t := by
  rw [failedBoundary_abandons a write (by simp [ha]) hp hk]
  exact takeReport_drain (s := s.copyFailed r a write w p k) hd ((account_drain_failed _ _).trans ht) hs hc

end Sys2Proof.Machine

namespace Sys2Proof

open Machine

/-- Settles O49: the drain's publish, its flip and its failures, for the window alone in the queue. -/
theorem drainsPublishFailAndFree : Obligations.DrainsPublishFailAndFree := by
  refine ⟨fun cnt s h w p n ha ho hb hv hdr hl hg hf q hu hw hdi hn => ?_,
    fun s r n w p k hr hg hp hk ha h1 h2 h3 h4 h5 h6 h7 h8 hq => ?_, fun s h l w p hd hp ha => ?_⟩
  · have hd : w.draining = false := by simp [Window.draining, hb, hdr]
    have retire : retireCommand (s.taking codeRetire cnt) = enterDraining h w p (s.taking codeRetire cnt) := by
      rw [retireCommand_paired (s := s.taking codeRetire cnt) ho hl hg (by simp [hd]) hb, if_neg (by omega),
        opr_taking, if_pos hf]
    have hp : s.paired? h = some (w, p) := paired?_eq_some.2 ⟨(oprWindow_eq_some ho).2, hb⟩
    let p' : Paired := { p with drain := some 0 }
    let w' : Window := { w with body := .paired p' }
    let t : State := { s.setPaired h.index w p' with
      engine := { s.engine with drainQueue := [h] }, cmd := s.cmd.completed codeRetire cnt .accepted [] }
    have enters : complete .accepted [] (modEngine (fun e => { e with drainQueue := e.drainQueue ++ [h] })
        ((s.taking codeRetire cnt).setPaired h.index w p')) = t := by
      simp only [modEngine]
      rw [show ((s.taking codeRetire cnt).setPaired h.index w p').engine.drainQueue = [] from q.drainQueue]
      rfl
    have matched : t.paired? h = some (w', p') := paired?_setPaired hp
    have next : nextCopyLine w' p'.take = some n := by
      rw [← hn, take_fresh (p := p') hw, take_fresh hw]
      exact nextCopyLine_congr rfl rfl rfl
    have begun : t.publishing h w' p' n = { s.publishing h w p' n with engine := t.engine, cmd := t.cmd } :=
      congrArg (fun x : State => { x with engine := t.engine, cmd := t.cmd })
        (publishing_setPaired (s := s) (h := h) (w := w) (n := n) (p' := p'))
    have left : p'.drained = false := by simp [Paired.drained, p', hdi]
    rw [exec_retire ha, retire, enterDraining_eq, engine_taking, if_pos q.state, enters,
      boundaryChoice_drain_starts (s := t) hu q.urgentRun q.urgentRequested rfl q.context matched left next,
      startedOn_fresh (q := p') hw, begun]
  · intro idle again freed
    have drains : s.engine.purpose ≠ some .regular := by rw [h2]; decide
    have running : s.engine.state ≠ .stopping := by rw [h1]; decide
    have only : s.reported.engine.DrainsOnly r.handle :=
      ⟨by show s.engine.state ≠ _; rw [h1]; decide, h5, h6, h3, h4, h7, h8⟩
    have kept : ({ s.reported.engine with state := .drain, heldFrom := none, purpose := some .drain } : Engine) =
        { s.engine with heldFrom := none } := by
      rw [← h1, ← h2]
      rfl
    refine ⟨fun bs hu hsu hl hi hn => ?_, ?_⟩
    · intro q
      let x : State := { s.lineFlipped r n bs w p k with engine := s.reported.engine }
      have flips : ∀ early, exec (.lineBoundary ⟨false, early⟩) s = .next (arbitrate (boundaryChoice x)) := by
        intro early
        have engine := engine_lineFlipped (r := r) (n := n) (bs := bs) (w := w) (p := p) (k := k) drains
        have reported : (s.lineFlipped r n bs w p k).reported = x := by
          rw [State.reported, engine]
          rfl
        rw [exec_lineBoundary_flips early hr hg hu hp hk hl hi hn (.inl ⟨ha, hsu⟩),
          takeReport_drain (t := x) (by rw [engine]; exact h2) (by rw [account_drain_flipped, reported])
            running h4]
      have matched : x.paired? r.handle = _ := paired?_lineFlipped (s := s) (n := n) (bs := bs) (k := k) hp
      refine ⟨fun hd early => ?_, fun i hd hi early => ?_⟩
      · have ends := drainFree_ends .clean (s := x) only rfl (paired?_eq_some.1 matched).1 hq
        rw [flips, boundaryChoice_drain_ends (s := x) only rfl matched rfl hd]
        refine ⟨_, rfl, ends.slot, ?_, ends.pubUnit, ends.engine, ends.report, ends.freed, ends.idle, ends.cmd⟩
        rw [ends.free]
        show s.free + p.carry.marks + _ = _
        simp [Window.marks, workMarks, hd, LineSet.marks]
        omega
      · have begins := boundaryChoice_drain_begins (s := x) only rfl rfl matched rfl hd
          ((nextCopyLine_congr rfl rfl rfl).trans hi) hq
        rw [flips]
        exact ⟨_, rfl, ⟨begins.pubUnit, begins.paired, begins.engine.trans kept, begins.cmd⟩, begins.events⟩
    · intro fails
      have failsAt : ∀ (st : List Host.Cell) (fresh a : Nat) (write : Bool) (i : Instr) (store : State → Prop),
          exec i s = .next (arbitrate (reportBoundary r.handle
            (failedBoundary r a write { giveUp s with store := st, fresh := fresh }))) →
          (∀ t : State, t.store = st → store t) → fails i write a store := by
        intro st fresh a write i store hexec hstore
        let u : State := { giveUp s with store := st, fresh := fresh }
        let y : State := (u.copyFailed r a write w p k).reported
        let p' : Paired := { p with dirty := p.dirty.union k.set, work := none }
        let w' : Window := { w with body := .paired p' }
        have matched : y.paired? r.handle = some (w', p') := paired?_merged (s := u) hp
        have pending : y.isPending .publishFault = true :=
          isPending_copyFailed (s := u) (r := r) (w := w) (p := p) (k := k) a write
        have failed : ∀ t : State, drainFailure r.handle y = t → t.engine.state = .drain → t.engine.context = none →
            exec i s = .next (arbitrate (boundaryChoice t)) := fun t ht hs hc => by
          rw [hexec, reportBoundary_drain_failed (s := u) ha hp hk h2 ht (by rw [hs]; decide) hc]
        refine ⟨fun hone => ?_, fun i hzero hd hi => ?_⟩
        · have hw := (paired?_eq_some.1 matched).1
          have ends := drainFree_ends .flushFailed (s := y) only rfl hw hq
          have second : drainFailure r.handle y = drainFree .flushFailed r.handle y :=
            drainFailure_second (hs := []) h3 matched hone
          have engine : (drainFree .flushFailed r.handle y).engine =
              { y.engine with drainQueue := y.engine.drainQueue.filter (· ≠ r.handle) } := by
            rw [drainFree_only _ hw]
          rw [failed _ second (by rw [engine]; exact h1) (by rw [engine]; exact h4),
            boundaryChoice_drainFree (s := y) only rfl hw]
          refine ⟨_, rfl, ⟨ends.slot, ?_, ends.pubUnit, ends.engine, ends.report, ends.freed, ends.idle, ends.cmd⟩,
            hstore _ ends.store, ends.faulted pending, ends.capture⟩
          have less := marks_union_le p.dirty k.set
          rw [ends.free]
          show s.free + (p.dirty.marks + k.set.marks - (p.dirty.union k.set).marks) + _ = _
          simp only [Window.marks, workMarks, w', p']
          omega
        · let z : State := { y.setPaired r.handle.index w' { p' with drain := some 1 } with
            engine := { y.engine with drainQueue := [] ++ [r.handle] } }
          have first : drainFailure r.handle y = z := drainFailure_first (hs := []) h3 matched hzero
          have requeued : z.paired? r.handle =
              some ({ w with body := .paired { p' with drain := some 1 } }, { p' with drain := some 1 }) :=
            paired?_setPaired (s := y) matched
          have begins := boundaryChoice_drain_begins (s := z)
            ⟨only.state, h5, h6, rfl, h4, h7, h8⟩ rfl rfl requeued rfl hd
            ((nextCopyLine_congr rfl rfl rfl).trans hi) hq
          rw [failed z first h1 h4]
          refine ⟨_, rfl, ⟨begins.pubUnit, begins.paired, begins.engine.trans ?_, begins.cmd⟩,
            hstore _ begins.store, ?_, ?_⟩
          · rw [← kept]
            show ({ y.engine with
              drainQueue := [r.handle], state := .drain, heldFrom := none, purpose := some .drain } : Engine) = _
            rw [← h3]
            rfl
          · rw [← pending]
            show State.isPending _ _ = z.isPending .publishFault
            unfold State.isPending
            rw [begins.events]
          · rw [begins.events]
            rfl
      refine ⟨fun hu hi => ?_, fun bs early hu hi => ?_⟩
      · refine failsAt s.store s.fresh _ _ _ _ ?_ fun t ht => ht
        rw [exec_lineCopyReadDone true hr hg hu hp hi]
        rfl
      · refine failsAt
          (Memory.write s.store (bankLine w p r.idle n) (unstatedBytes s.fresh (bankLine w p r.idle n) bs.length))
          (s.fresh + 1) _ _ _ _ ?_ fun t ht y hy => ?_
        · rw [exec_lineBoundary true early hr hg hu hp hi]
          rfl
        · rw [ht]
          exact Memory.byte_write_other _ _ (by rwa [length_unstatedBytes])
  · rw [account_drain_failed, drainFailure_first hd hp ha]
    rfl

end Sys2Proof
end

section
/-! The suspended context: set aside, adopted, resumed and counted. -/

namespace Sys2Proof.Machine

variable {s t : State} {code cnt : BitVec 8} {h : Handle} {r : PublishRecord} {w v : Window} {p q : Paired}
  {k : Working} {m : RegularRun} {c : SuspendedCtx} {n i : Nat} {bs : List Byte} {l : List Handle}

/-! ### Setting aside (R110) -/

/-- A suspended regular publish becomes the context. -/
theorem takeReport_suspended (hp : s.engine.purpose = some .regular) (hs : s.engine.state ≠ .stopping)
    (hr : s.engine.run = some m) :
    takeReport h .suspended s =
      boundaryChoice { s with
        engine := { s.engine with
          purpose := none, heldFrom := none,
          context := some { handle := h, pos := m.pos, outcome := .waiting } } } := by
  have same : s.engine.working.map (WorkReport.count h.index .suspended) = s.engine.working := by
    cases s.engine.working <;> rfl
  simp [takeReport, hp, account, modWork, modEngine, same, hs, conclude, suspendContext, hr]

/-- An urgent run that is requested begins with its first entry. -/
theorem boundaryChoice_requested (hr : s.pubUnit = .ready) (hu : s.engine.urgentRun = none)
    (hq : s.engine.urgentRequested = true) (hl : s.engine.urgentList = h :: l) (hp : s.paired? h = some (v, q))
    (hk : s.isLocked h = false) (hn : nextCopyLine v q.take = some i) :
    boundaryChoice s =
      { s.startedOn h v q i with
        engine := { s.engine.urgentBegun.adopt h with
          state := .urgent, heldFrom := none, purpose := some .urgent } } := by
  let b : State := { s with engine := s.engine.urgentBegun }
  have begins : choiceStep s = (b, true) := by
    have some : s.engine.urgentList ≠ [] := by simp [hl]
    simp [choiceStep, hu, hq, beginUrgent_over some, b]
  have listed : b.engine.urgentList[0]? = some h := by
    show s.engine.urgentList[0]? = some h
    simp [hl]
  exact boundaryChoice_twice hr begins (choiceStep_urgent_starts (s := b) rfl listed hp hk hn)

/-! ### A publish that goes on with its W (R63) -/

theorem take_kept (hk : p.work = some k) : p.take = p := by
  simp [Paired.take, hk]

theorem startedOn_kept (hp : s.paired? h = some (w, p)) (hk : p.work = some k) :
    s.startedOn h w p n = { s with pubUnit := .reading (newRecord h p) n } := by
  rw [State.startedOn, take_kept hk, setPaired_self hp]

/-! ### Resuming (R114) -/

theorem choiceStep_context (hu : s.engine.urgentRun = none) (hq : s.engine.urgentRequested = false)
    (hd : s.engine.drainQueue = []) (hc : s.engine.context = some c) : choiceStep s = resumeContext c s := by
  simp [choiceStep, hu, hq, hd, hc]

theorem resumeContext_reads (ho : c.outcome = .waiting) (hp : s.paired? c.handle = some (w, p))
    (hk : p.work = some k) (hl : s.isLocked c.handle = false) (hn : nextCopyLine w p = some n) :
    resumeContext c s =
      ({ s with
          pubUnit := .reading (newRecord c.handle p) n,
          engine := { s.engine with
            context := none, state := .run, heldFrom := none, purpose := some .regular } }, false) := by
  have starts := startPublish_goes_on (s := dropContext s) .regular .run hp (by rw [take_kept hk]; exact hn)
  simp only [resumeContext, ho, hp, hl]
  refine starts.trans ?_
  rw [take_kept hk, setPaired_self (s := dropContext s) hp]
  rfl

theorem resumeContext_holds (ho : c.outcome = .waiting) (hp : s.paired? c.handle = some (w, p))
    (hk : p.work = some k) (hl : s.isLocked c.handle = true) :
    resumeContext c s =
      ({ s with
          pubUnit := .paused (newRecord c.handle p),
          engine := { s.engine with
            context := none, state := .held, heldFrom := some .run, purpose := some .regular } }, false) := by
  let e : State := { s with engine := { s.engine with
    context := none, state := .held, heldFrom := some .run, purpose := some .regular } }
  have held : resumeHeld c s = { e.setPaired c.handle.index w p.take with
      pubUnit := .paused (newRecord c.handle p) } := by
    have matched : e.paired? c.handle = some (w, p) := hp
    show startHeld c.handle e = _
    simp only [startHeld, matched]
  simp only [resumeContext, ho, hp, hl, if_true]
  rw [held, take_kept hk, setPaired_self (s := e) hp]

/-! ### The end of an entry (R95, R97, R99) -/

/-- An entry with another behind it. -/
theorem entryEnds_next (hr : s.engine.run = some m) (hm : s.engine.config.mode ≠ .stepped)
    (hl : m.pos + 1 < s.engine.regularSeq.length) :
    entryEnds s =
      { s with engine := { s.engine with
          run := some { pos := m.pos + 1, remaining := m.remaining.map fun a => a - 1 } } } := by
  have more : ¬ s.engine.regularSeq.length ≤ m.pos + 1 := by omega
  simp [entryEnds, hr, modEngine, Engine.nextEntry, hm, more]

/-- A run goes on after a pass only in CONTINUOUS, and only if the pass made a line copy (R94, R95). -/
theorem runEnds_eq {e : Engine} {v : WorkReport} (hm : e.config.mode ≠ .stepped) :
    runEnds e v = !decide (e.config.mode = .continuous ∧ e.regularSeq ≠ [] ∧ v.copied = true) := by
  unfold runEnds
  cases hd : e.config.mode with
  | single => simp
  | stepped => exact absurd hd hm
  | continuous => cases e.regularSeq <;> cases v.copied <;> rfl

/-- The last entry ends its pass. -/
theorem entryEnds_pass {v : WorkReport} (hr : s.engine.run = some m) (hm : s.engine.config.mode ≠ .stepped)
    (hl : s.engine.regularSeq.length ≤ m.pos + 1) (hv : s.engine.working = some v)
    (ha : s.engine.config.autoUrgent = false) :
    entryEnds s =
      { s with
        events := s.events.raised .passDone,
        engine := { s.engine with
          run := if s.engine.config.mode = .continuous ∧ s.engine.regularSeq ≠ [] ∧ v.copied = true
                 then some { pos := m.pos + 1, remaining := m.remaining.map fun a => a - 1 } else none,
          working := none, passReport := v.ended v.endStatus } } := by
  have step : entryEnds s = { s with
      events := s.events.raised .passDone,
      engine := { s.engine with
        run := if runEnds s.engine v then none
               else some { pos := m.pos + 1, remaining := m.remaining.map fun a => a - 1 },
        working := none, passReport := v.ended v.endStatus } } := by
    simp [entryEnds, hr, modEngine, Engine.nextEntry, hm, hl, finishPass, hv, writePass, raise, Engine.afterPass, ha,
      EventUnit.raised, runEnds] <;> rfl
  rw [step, runEnds_eq hm]
  by_cases goes : s.engine.config.mode = .continuous ∧ s.engine.regularSeq ≠ [] ∧ v.copied = true
  · simp [goes]
  · rw [if_neg goes, decide_eq_false goes]
    rfl

/-- An urgent trigger that finds the engine HELD on a regular publish sets it aside at once (R110). -/
theorem urgentTrigger_held (hd : urgentDropped s.engine = false) (hs : s.engine.state = .held)
    (hu : s.pubUnit = .paused r) :
    urgentTrigger s =
      (takeReport r.handle .suspended { s with
        pubUnit := .ready, engine := { s.engine with urgentRequested := true } }, .begun) := by
  simp [urgentTrigger, hd, hs, suspendHeld, modEngine, hu, unitReady]

/-- What a boundary leaves of the engine of a regular publish: the pass has made a line copy. -/
theorem engine_lineWritten (hp : s.engine.purpose = some .regular) :
    (s.lineWritten r n bs w p k).engine =
      { s.engine with working := s.engine.working.map fun v => { v with copied := true } } := if_pos hp

theorem engine_lineFlipped_regular (hp : s.engine.purpose = some .regular) :
    (s.lineFlipped r n bs w p k).engine =
      { s.engine with working := s.engine.working.map fun v => { v with copied := true } } := if_pos hp

/-- The suspension of a regular publish at its boundary (R110). -/
theorem exec_lineBoundary_suspends (hr : s.inReset = none) (hg : s.grant = some .engine)
    (hu : s.pubUnit = .writing r n bs) (hp : s.paired? r.handle = some (w, p)) (hk : p.work = some k)
    (hi : s.inStore (p.bankOffset r.idle + n * w.lineSize.bytes) bs.length = true) (ha : r.abandons = [])
    (hs : r.suspend = true) (hpu : s.engine.purpose = some .regular) (hst : s.engine.state ≠ .stopping)
    (hrun : s.engine.run = some m) :
    exec (.lineBoundary ⟨false, false⟩) s =
      .next (arbitrate (boundaryChoice { s.lineWritten r n bs w p k with
        pubUnit := .ready,
        engine := { s.engine with
          purpose := none, heldFrom := none, context := some { handle := r.handle, pos := m.pos, outcome := .waiting },
          working := s.engine.working.map fun v => { v with copied := true } } })) := by
  have engine := engine_lineWritten (r := r) (n := n) (bs := bs) (w := w) (p := p) (k := k) hpu
  generalize hb : s.lineWritten r n bs w p k = b at engine ⊢
  rw [exec_lineBoundary false false hr hg hu hp hi, copyWriteDone_good false hp hk, boundary_after, hb,
    boundaryAction_suspends ha hs]
  show Host.Outcome.next (arbitrate (takeReport r.handle .suspended (unitReady b))) = _
  rw [takeReport_suspended (s := unitReady b) (m := m) (engine ▸ hpu) (engine ▸ hst) (engine ▸ hrun)]
  show Host.Outcome.next (arbitrate (boundaryChoice { b with
    pubUnit := .ready,
    engine := { b.engine with
      purpose := none, heldFrom := none,
      context := some { handle := r.handle, pos := m.pos, outcome := .waiting } } })) = _
  rw [engine]

end Sys2Proof.Machine

namespace Sys2Proof

open Machine

/-- Settles O47: the suspension, the choice by the context's outcome, the entry's end, and the adopter's report. -/
theorem contextIsSetAsideAdoptedAndResumed : Obligations.ContextIsSetAsideAdoptedAndResumed := by
  refine ⟨fun s r w p k m u l hp hk hpu hrun hur hul => ?_, fun s c hu hq hd hc => ?_, fun s m hr hm => ?_,
    fun s h c hc ho => ?_⟩
  · intro e
    refine ⟨fun n bs hr hg hu ha hs hst hreq hi => ?_,
      fun cnt v q x ha hst hu hau hreq hne hpq hlq hqw hx => ?_⟩
    · intro p' g f
      have running : s.engine.state ≠ .stopping := by rw [hst]; decide
      -- The state when the suspended publish has become the context.
      let y : State := { s.lineWritten r n bs w p k with
        pubUnit := .ready,
        engine := { s.engine with
          purpose := none, heldFrom := none, context := some { handle := r.handle, pos := m.pos, outcome := .waiting },
          working := s.engine.working.map fun v => { v with copied := true } } }
      have suspends : exec (.lineBoundary ⟨false, false⟩) s = .next (arbitrate (boundaryChoice y)) :=
        exec_lineBoundary_suspends hr hg hu hp hk hi ha hs hpu running hrun
      refine ⟨fun v q x hne hpq hlq hqw hx => ?_, fun v q x z hne hpq hlq hqw hx hn hl h1 h2 h3 h4 h5 h6 h7 => ?_,
        fun x he hl hx => ?_⟩
      · have matched : y.paired? u = some (v, q) := (paired?_setPaired_other (p' := p') hp hne).trans hpq
        have alone : y.engine.urgentBegun.adopt u = y.engine.urgentBegun :=
          Engine.adopt_other (c := { handle := r.handle, pos := m.pos, outcome := .waiting }) rfl (Ne.symm hne)
        rw [suspends, boundaryChoice_requested (s := y) rfl hur hreq hul matched hlq hx, alone, startedOn_fresh hqw]
        rfl
      · -- The state when the flipped entry has been counted and the pass goes on behind it.
        let d : State := { s.lineFlipped r n bs w p k with
          engine := { s.engine with
            purpose := none, heldFrom := none,
            run := some { pos := m.pos + 1, remaining := m.remaining.map fun a => a - 1 },
            working := some { z with published := z.published + 1, copied := true } } }
        have engine := engine_lineFlipped_regular (r := r) (n := n) (bs := bs) (w := w) (p := p) (k := k) hpu
        have flips : exec (.lineBoundary ⟨false, true⟩) s = .next (arbitrate (boundaryChoice d)) := by
          rw [exec_lineBoundary_flips true hr hg hu hp hk hl hi hn (.inr ⟨rfl, h1, h2, by rw [ha]; decide⟩)]
          have counted : takeReport r.handle .flipped (s.lineFlipped r n bs w p k) =
              boundaryChoice (entryEnds { s.lineFlipped r n bs w p k with engine := { s.engine with
                purpose := none, heldFrom := none,
                working := some { z with published := z.published + 1, copied := true } } }) := by
            rw [takeReport_regular (engine ▸ hpu) (engine ▸ running) (engine ▸ h3) (by simp), engine, h7]
            rfl
          rw [counted, entryEnds_next (s := { s.lineFlipped r n bs w p k with engine := { s.engine with
            purpose := none, heldFrom := none,
            working := some { z with published := z.published + 1, copied := true } } }) hrun h4 h5]
        have matched : d.paired? u = some (v, q) := (paired?_flipped_other (s := s) hp hne).trans hpq
        have alone : d.engine.urgentBegun.adopt u = d.engine.urgentBegun := Engine.adopt_none h6
        have same : g.flipped r.handle w p k r.idle =
            { s.lineFlipped r n bs w p k with pubUnit := s.pubUnit, engine := s.engine } := by
          simp [g, State.flipped, State.lineFlipped, State.slot]
        rw [flips, boundaryChoice_requested (s := d) rfl hur hreq hul matched hlq hx, alone, startedOn_fresh hqw, same,
          ← h6]
        rfl
      · subst he
        have matched : y.paired? r.handle = some ({ w with body := .paired p' }, p') := paired?_lineWritten (bs := bs) hp
        have adopts : y.engine.urgentBegun.adopt r.handle =
            { y.engine.urgentBegun with
              context := some { handle := r.handle, pos := m.pos, outcome := .adopted } } := by
          simp [Engine.adopt, Engine.urgentBegun, y]
        rw [suspends, boundaryChoice_requested (s := y) rfl hur hreq hul matched hl (by rw [take_kept rfl]; exact hx),
          adopts, startedOn_kept (s := y) matched rfl]
        rfl
    · have dropped := not_urgentDropped hau hreq hur (by rw [hst]; decide)
      let y : State := { s.taking codeUrgent cnt with
        pubUnit := .ready,
        engine := { s.engine with
          urgentRequested := true, purpose := none, heldFrom := none,
          context := some { handle := r.handle, pos := m.pos, outcome := .waiting } } }
      have alone : y.engine.urgentBegun.adopt u = y.engine.urgentBegun :=
        Engine.adopt_other (c := { handle := r.handle, pos := m.pos, outcome := .waiting }) rfl (Ne.symm hne)
      have suspends : takeReport r.handle .suspended { s.taking codeUrgent cnt with
          pubUnit := .ready, engine := { s.engine with urgentRequested := true } } = boundaryChoice y :=
        takeReport_suspended (s := { s.taking codeUrgent cnt with
          pubUnit := .ready, engine := { s.engine with urgentRequested := true } }) hpu
          (by show s.engine.state ≠ _; rw [hst]; decide) hrun
      rw [exec_urgent ha, urgentTrigger_held (s := s.taking codeUrgent cnt) dropped hst hu]
      show Host.Outcome.next (arbitrate (complete .done [] (takeReport r.handle .suspended
        { s.taking codeUrgent cnt with
          pubUnit := .ready, engine := { s.engine with urgentRequested := true } }))) = _
      rw [suspends, boundaryChoice_requested (s := y) rfl hur rfl hul hpq hlq hx, alone, startedOn_fresh hqw]
      rfl
  · intro counted
    rw [choiceStep_context hu hq hd hc]
    refine ⟨fun ho => ?_, fun ho => ?_, fun ho => ?_, fun w p k ho hp hk => ?_⟩
    · simp only [resumeContext, ho]
      rfl
    · rcases ho with ho | ⟨ho, hp⟩
      · simp only [resumeContext, ho]
        rfl
      · simp only [resumeContext, ho, hp]
        rfl
    · simp only [resumeContext, ho]
    · intro r
      exact ⟨fun n hl hn => resumeContext_reads ho hp hk hl hn, fun hl => resumeContext_holds ho hp hk hl⟩
  · intro next
    exact ⟨fun hl => entryEnds_next hr hm hl, fun v hl hv ha => entryEnds_pass hr hm hl hv ha⟩
  · intro after
    have resolves : ∀ rep : UnitReport, modEngine (fun e => e.resolve rep) s = after (c.outcome.after rep) := by
      intro rep
      simp [modEngine, Engine.resolve, hc, ho, after]
    refine ⟨?_, fun a ha => ?_, fun hr => ⟨?_, fun a ha => ?_⟩⟩
    · exact (resolves _).trans (by rw [ho]; rfl)
    · refine (resolves _).trans ?_
      rcases ha with rfl | rfl | rfl <;> (rw [ho]; rfl)
    · simp only [conclude, resolves, ho]
      exact if_neg (by simp [after, hr])
    · simp only [conclude, resolves, ho]
      rcases ha with rfl | rfl <;> exact if_neg (by simp [after, hr])

end Sys2Proof
end

section
/-! SEQ and USEQ: the lists that they take, and the pass that a SEQ ends. -/

namespace Sys2Proof.Machine

variable {s t : State} {cnt : BitVec 8} {h : Handle} {r : PublishRecord} {w : Window} {p : Paired}
  {k : Working} {m : RegularRun} {v : WorkReport} {c : SuspendedCtx} {n : Nat} {bs : List Byte} {l : List Handle}

/-! ### The entries (R86, R178) -/

theorem handleOf_eq_some {f : BitVec 16} :
    handleOf f = some h ↔ h.index.val = (f.extractLsb' 0 8).toNat ∧ h.inst = f.extractLsb' 8 8 := by
  obtain ⟨i, x⟩ := h
  unfold handleOf
  split
  · next hf =>
    simp only [Option.some.injEq, Handle.mk.injEq, Fin.ext_iff]
    exact ⟨fun e => ⟨e.1.symm, e.2.symm⟩, fun e => ⟨e.1.symm, e.2.symm⟩⟩
  · next hf =>
    simp only [reduceCtorEq, false_iff, not_and]
    intro hi
    have bound := i.isLt
    omega

theorem handleOf_isSome {f : BitVec 16} : (handleOf f).isSome = true ↔ f.extractLsb' 0 8 < 32#8 := by
  unfold handleOf
  rw [BitVec.lt_def]
  split
  · next hf => exact ⟨fun _ => hf, fun _ => rfl⟩
  · next hf => exact iff_of_false (by simp) hf

/-- A list of results that all exist, one for each element. -/
theorem mapM_eq_some {α β : Type} {f : α → Option β} {l : List α} {r : List β} :
    l.mapM f = some r ↔ List.Forall₂ (fun a b => f a = some b) l r := by
  induction l generalizing r with
  | nil => simp [eq_comm]
  | cons a l ih =>
    cases r with
    | nil => simp [List.mapM_cons, Option.bind_eq_some_iff]
    | cons b r => simp [List.mapM_cons, Option.bind_eq_some_iff, ih]

theorem mapM_isSome {α β : Type} {f : α → Option β} {l : List α} :
    (l.mapM f).isSome = true ↔ ∀ a ∈ l, (f a).isSome = true := by
  induction l with
  | nil => simp
  | cons a l ih =>
    cases ha : f a with
    | none => simp [List.mapM_cons, ha]
    | some b => cases hl : l.mapM f <;> simp_all [List.mapM_cons]

theorem oprEntries_isSome : (oprEntries s n).isSome = true ↔ ∀ i, i < n → (oprField s i).extractLsb' 0 8 < 32#8 := by
  rw [oprEntries, mapM_isSome]
  simp only [List.mem_range]
  exact forall₂_congr fun i _ => handleOf_isSome

theorem oprEntries_eq_some {i : Nat} (hl : oprEntries s n = some l) (hi : l[i]? = some h) :
    handleOf (oprField s i) = some h := by
  have all := mapM_eq_some.1 hl
  obtain ⟨hlt, rfl⟩ := List.getElem?_eq_some_iff.1 hi
  have entry := all.get (i := i) (by simpa [all.length_eq] using hlt) hlt
  have same : oprEntry s i = handleOf (oprField s i) := rfl
  simpa [same] using entry

theorem length_oprEntries (hl : oprEntries s n = some l) : l.length = n := by
  have all := (mapM_eq_some.1 hl).length_eq
  simpa using all.symm

/-! ### The commands, past each of their checks (R86, R106) -/

theorem seqCommand_refused (hc : 16 < cnt.toNat ∨ oprEntries s cnt.toNat = none) :
    seqCommand cnt s = refuseCommand .badOperand s := by
  unfold seqCommand
  split
  · rfl
  · next hle => rw [hc.resolve_left hle]

theorem useqCommand_refused (hc : 4 < cnt.toNat ∨ oprEntries s cnt.toNat = none) :
    useqCommand cnt s = refuseCommand .badOperand s := by
  unfold useqCommand
  split
  · rfl
  · next hle => rw [hc.resolve_left hle]

/-- The state with SEQ's list in place, its command completed. -/
def State.listed (s : State) (cnt : BitVec 8) (l : List Handle) : State :=
  { s with engine := { s.engine with regularSeq := l }, cmd := s.cmd.completed codeSeq cnt .done [] }

theorem exec_seq (ha : s.accepts) :
    exec (.seq cnt) s = .next (arbitrate (seqCommand cnt (s.taking codeSeq cnt))) :=
  takeCommand_taking (f := fun t => arbitrate (seqCommand cnt t)) ha

theorem exec_seq_listed (ha : s.accepts) (hc : cnt.toNat ≤ 16) (hl : oprEntries s cnt.toNat = some l) :
    exec (.seq cnt) s = .next (arbitrate (seqEffect (s.listed cnt l))) := by
  have entries : oprEntries (s.taking codeSeq cnt) cnt.toNat = some l := hl
  rw [exec_seq ha, seqCommand, if_neg (by omega), entries]
  rfl

/-! ### The pass that a SEQ ends (R87) -/

/-- With no pass begun a SEQ has no more to do. -/
theorem seqEffect_idle (hw : s.engine.working = none) (hc : s.engine.context = none)
    (hp : s.engine.purpose ≠ some .regular) : seqEffect s = s := by
  simp [seqEffect, hw, hc, hp]

theorem seqEffect_between (hw : s.engine.working = some v) (hc : s.engine.context = none)
    (hp : s.engine.purpose ≠ some .regular) (hr : s.engine.run = none) :
    seqEffect s =
      { s with
        engine := { s.engine with working := none, cursor := 0, passReport := v.aborted },
        events := s.events.raised .passDone } := by
  simp [seqEffect, hw, hc, hp, hr, writePass, modEngine, raise, WorkReport.ended, WorkReport.aborted,
    EventUnit.raised]

theorem seqEffect_running (hw : s.engine.working = some v) (hc : s.engine.context = none)
    (hp : s.engine.purpose ≠ some .regular) (hr : s.engine.run = some m) : seqEffect s = restartPass s := by
  simp [seqEffect, hw, hc, hp, hr]

/-- A SEQ has been taken, which the report of the regular publish at the unit will act on. -/
def State.restarting (s : State) : State := { s with engine := { s.engine with restartPass := true } }

theorem seqEffect_asks (hc : s.engine.context = none) (hp : s.engine.purpose = some .regular)
    (hs : s.engine.state ≠ .held) :
    seqEffect s = requestAbandon .seq s.restarting := by
  simp [seqEffect, hc, hp, hs, modEngine, State.restarting]

theorem seqEffect_held (hc : s.engine.context = none) (hp : s.engine.purpose = some .regular)
    (hs : s.engine.state = .held) :
    seqEffect s = abandonHeld .seq s.restarting := by
  simp [seqEffect, hc, hp, hs, modEngine, State.restarting]

theorem seqEffect_context (hc : s.engine.context = some c) : seqEffect s = restartPass (abandonContext s) := by
  simp [seqEffect, hc]

/-- A WAITING context's W goes back into D (R103). -/
theorem abandonContext_waiting (hc : s.engine.context = some c) (ho : c.outcome = .waiting)
    (hp : s.paired? c.handle = some (w, p)) (hk : p.work = some k) :
    abandonContext s = { s.merged c.handle w p k with engine := { s.engine with context := none } } := by
  simp only [abandonContext, hc, ho, if_true, mergeWork_merged hp hk]
  rfl

theorem abandonContext_else (hc : s.engine.context = some c) (ho : c.outcome ≠ .waiting) :
    abandonContext s = { s with engine := { s.engine with context := none } } := by
  simp only [abandonContext, hc, if_neg ho]
  rfl

theorem abandonContext_none (hc : s.engine.context = none) : abandonContext s = s := by
  simp [abandonContext, hc]

/-- A pass that begins again leaves no count of the one that ended. -/
theorem Engine.passAgain_working (e : Engine) (x : Option WorkReport) (a : RunReport) :
    ({ e with working := x } : Engine).passAgain a = e.passAgain a := by
  unfold Engine.passAgain
  repeat' split
  all_goals rfl

theorem Engine.passAgain_restart (e : Engine) (b : Bool) (a : RunReport) :
    ({ e with restartPass := b } : Engine).passAgain a = e.passAgain a := by
  unfold Engine.passAgain
  repeat' split
  all_goals rfl

/-- The report of a regular publish with a SEQ taken meanwhile: its count, the pass's end, and a new pass. -/
theorem takeReport_restartsPass {rep : UnitReport} (hp : s.engine.purpose = some .regular)
    (hs : s.engine.state ≠ .stopping) (hr : s.engine.restartPass = true) (hrep : rep ≠ .suspended)
    (hv : s.engine.working = some v)
    (hc : s.engine.regularSeq ≠ [] ∨ s.engine.config.mode = .stepped ∨ s.engine.config.autoUrgent = false) :
    takeReport h rep s =
      boundaryChoice { s with
        engine := ({ s.engine with purpose := none, heldFrom := none } : Engine).passAgain
          (v.count h.index rep).aborted,
        events := s.events.raised .passDone } := by
  have ends := restartPass_eq (s := { s with engine := { s.engine with
    purpose := none, heldFrom := none, working := some (v.count h.index rep) } }) rfl hc
  have counted : takeReport h rep s = boundaryChoice (restartPass { s with engine := { s.engine with
      purpose := none, heldFrom := none, working := some (v.count h.index rep) } }) := by
    simp [takeReport, hp, account, modWork, modEngine, hs, conclude, hrep, hr, hv]
  rw [counted, ends, Engine.passAgain_working (e := { s.engine with purpose := none, heldFrom := none })]

/-- A line copy that a boundary has made has no part in the aborted pass's report. -/
theorem takeReport_restartsPass_copied {rep : UnitReport} (hp : s.engine.purpose = some .regular)
    (hs : s.engine.state ≠ .stopping) (hr : s.engine.restartPass = true) (hrep : rep ≠ .suspended)
    (hv : s.engine.working = some v)
    (hc : s.engine.regularSeq ≠ [] ∨ s.engine.config.mode = .stepped ∨ s.engine.config.autoUrgent = false)
    (ht : t.engine = { s.engine with working := s.engine.working.map fun v => { v with copied := true } }) :
    takeReport h rep t =
      boundaryChoice { t with
        engine := ({ s.engine with purpose := none, heldFrom := none } : Engine).passAgain
          (v.count h.index rep).aborted,
        events := t.events.raised .passDone } := by
  have working : t.engine.working = some { v with copied := true } := by
    rw [ht, hv]
    rfl
  have same : (({ v with copied := true } : WorkReport).count h.index rep).aborted = (v.count h.index rep).aborted := by
    cases rep with
    | abandoned c => cases c <;> rfl
    | _ => rfl
  rw [takeReport_restartsPass (v := { v with copied := true }) (by rw [ht]; exact hp) (by rw [ht]; exact hs)
    (by rw [ht]; exact hr) hrep working (by rw [ht]; exact hc), same, ht,
    Engine.passAgain_working (e := { s.engine with purpose := none, heldFrom := none })]

theorem engine_lineAbandoned_regular (hp : s.engine.purpose = some .regular) :
    (s.lineAbandoned r n bs w p k).engine =
      { s.engine with working := s.engine.working.map fun v => { v with copied := true } } := if_pos hp

/-- The abandon at once of a held publish (R66, R87, R107). -/
theorem abandonHeld_merged (a : AbandonCause) (hu : s.pubUnit = .paused r) (hp : s.paired? r.handle = some (w, p))
    (hk : p.work = some k) :
    abandonHeld a s = takeReport r.handle (.abandoned a) { s.merged r.handle w p k with pubUnit := .ready } := by
  simp only [abandonHeld, hu, abandonPublish_merged hp hk]

end Sys2Proof.Machine

namespace Sys2Proof

open Machine

/-- Settles O26: the entries by their fields, the lists in place, and the pass in progress by where it stands. -/
theorem seqAndUseqReplaceTheirLists : Obligations.SeqAndUseqReplaceTheirLists := by
  refine ⟨fun s n _ => ⟨oprEntries_isSome, fun l hl => ⟨length_oprEntries hl, fun k h hk =>
      handleOf_eq_some.1 (oprEntries_eq_some hl hk)⟩⟩,
    fun cnt s ha => ⟨fun hc => ?_, fun hc => ?_, fun l hl => ⟨fun hc hw hx hp => ?_, fun hc hu => ?_⟩⟩,
    fun cnt s l v ha hcnt hl hc hv => ⟨fun hr hp => ?_, fun t hp hs ht => ?_⟩,
    fun s r n w p k v hr hg hs hpu hre hv hp hk hret hcond => ?_, fun cnt s l v ha hcnt hl hv hcond => ?_⟩
  · rw [exec_seq ha, seqCommand_refused (s := s.taking codeSeq cnt) hc, refuseCommand_taking]
  · rw [exec_useq ha, useqCommand_refused (s := s.taking codeUseq cnt) hc, refuseCommand_taking]
  · rw [exec_seq_listed ha hc hl, seqEffect_idle (s := s.listed cnt l) hw hx hp]
    rfl
  · have none : useqEffect (complete .done [] (modEngine (fun e => { e with urgentList := l })
        (s.taking codeUseq cnt))) = _ := if_pos (by
      show s.engine.urgentRun.isNone = true
      rw [hu]
      rfl)
    rw [exec_useq ha, useqCommand_listed (s := s.taking codeUseq cnt) hc hl, none]
    rfl
  · rw [exec_seq_listed ha hcnt hl, seqEffect_between (s := s.listed cnt l) hv hc
      (by show s.engine.purpose ≠ _; rw [hp]; simp) hr]
    rfl
  · rw [exec_seq_listed ha hcnt hl, seqEffect_asks (s := s.listed cnt l) hc hp
      (by show s.engine.state ≠ _; rw [hs]; decide)]
    rcases ht with ⟨r, n, hu, rfl⟩ | ⟨r, n, bs, hu, rfl⟩
    · rw [requestAbandon_reading (s := (s.listed cnt l).restarting) .seq hu]
      rfl
    · rw [requestAbandon_writing (s := (s.listed cnt l).restarting) .seq hu]
      rfl
  · intro e skipped
    have running : s.engine.state ≠ .stopping := by rw [hs]; decide
    have failed : ∀ (st : List Host.Cell) (fresh a : Nat) (write : Bool),
        reportBoundary r.handle (failedBoundary r a write { giveUp s with store := st, fresh := fresh }) =
          boundaryChoice { s.merged r.handle w p k with
            grant := none, pubUnit := .ready, store := st, fresh := fresh, engine := e.passAgain skipped.aborted,
            events := (s.events.faulted .publishFault
              (.lineCopy (BitVec.ofNat 32 a) write r.handle.index)).raised .passDone } := by
      intro st fresh a write
      let u : State := { giveUp s with store := st, fresh := fresh }
      show reportBoundary r.handle (failedBoundary r a write u) = _
      rw [failedBoundary_abandons (s := u) a write hret hp hk]
      exact takeReport_restartsPass (s := u.copyFailed r a write w p k) (rep := .abandoned .storeError) hpu running
        hre (by simp) hv hcond
    refine ⟨fun bs cs hu hab hi => ?_, fun bs hu h1 h2 hl hn hi => ?_, fun hu hi => ?_, fun bs early hu hi => ?_⟩
    · rw [exec_lineBoundary_abandons hr hg hu hp hk hi hab hret,
        takeReport_restartsPass_copied hpu running hre (by simp) hv hcond (engine_lineAbandoned_regular hpu)]
      rfl
    · rw [exec_lineBoundary_flips true hr hg hu hp hk hl hi hn (.inr ⟨rfl, h1, h2, hret⟩),
        takeReport_restartsPass_copied hpu running hre (by simp) hv hcond (engine_lineFlipped_regular hpu)]
      rfl
    · rw [exec_lineCopyReadDone true hr hg hu hp hi]
      exact congrArg (fun x => Host.Outcome.next (arbitrate x)) (failed s.store s.fresh _ false)
    · rw [exec_lineBoundary true early hr hg hu hp hi]
      exact congrArg (fun x => Host.Outcome.next (arbitrate x)) (failed _ (s.fresh + 1) _ true)
  · intro e cmd
    have listed : (s.listed cnt l).engine = e := rfl
    rw [exec_seq_listed ha hcnt hl]
    refine ⟨fun r w p k hc hs hpu hu hp hk => ?_, fun c w p k hc ho hp hk => ?_, fun c hc ho => ?_,
      fun m hc hpu hm => ?_⟩
    · let u : State := { (s.listed cnt l).restarting.merged r.handle w p k with pubUnit := .ready }
      have again : ({ u.engine with purpose := none, heldFrom := none } : Engine).passAgain
            (v.count r.handle.index (.abandoned .seq)).aborted =
          ({ e with purpose := none, heldFrom := none } : Engine).passAgain v.aborted :=
        Engine.passAgain_restart { e with purpose := none, heldFrom := none } true v.aborted
      rw [seqEffect_held (s := s.listed cnt l) hc hpu hs,
        abandonHeld_merged (s := (s.listed cnt l).restarting) .seq hu hp hk,
        takeReport_restartsPass (s := u) (v := v) hpu (by show s.engine.state ≠ _; rw [hs]; decide) rfl (by simp) hv
          hcond, again]
      rfl
    · rw [seqEffect_context (s := s.listed cnt l) hc, abandonContext_waiting (s := s.listed cnt l) hc ho hp hk,
        restartPass_eq (s := { (s.listed cnt l).merged c.handle w p k with
          engine := { (s.listed cnt l).engine with context := none } }) hv hcond]
      rfl
    · rw [seqEffect_context (s := s.listed cnt l) hc, abandonContext_else (s := s.listed cnt l) hc ho,
        restartPass_eq (s := { s.listed cnt l with engine := { (s.listed cnt l).engine with context := none } })
          hv hcond]
      rfl
    · rw [seqEffect_running (s := s.listed cnt l) hv hc hpu hm, restartPass_eq (s := s.listed cnt l) hv hcond]
      rfl

end Sys2Proof
end

section
/-! STOP: the end of STOPPING and of STOP in HELD. -/

namespace Sys2Proof.Machine

variable {s t a : State} {cnt : BitVec 8} {h : Handle} {r : PublishRecord} {w : Window} {p : Paired}
  {k : Working} {m : RegularRun} {v : WorkReport} {u : UrgentRun} {c : SuspendedCtx} {n : Nat} {bs : List Byte}
  {pu : Purpose} {rep : UnitReport}

/-! ### The command (R101, R102) -/

theorem exec_stop (ha : s.accepts) :
    exec (.stop cnt) s = .next (arbitrate (stopCommand (s.taking codeStop cnt))) :=
  takeCommand_taking (f := fun t => arbitrate (stopCommand t)) ha

theorem stopCommand_idle (hs : s.engine.state = .idle) : stopCommand s = complete .done [] s := by
  simp [stopCommand, hs]

/-- The engine STOPPING (R102). -/
def State.stopping (s : State) : State := { s with engine := { s.engine with state := .stopping } }

theorem stopCommand_asks (hs : s.engine.state = .run ∨ s.engine.state = .urgent ∨ s.engine.state = .drain) :
    stopCommand s = requestAbandon .stop s.stopping := by
  rcases hs with hs | hs | hs <;> simp only [stopCommand, hs] <;> rfl

theorem stopCommand_held (hs : s.engine.state = .held) (hu : s.pubUnit = .paused r)
    (hp : s.paired? r.handle = some (w, p)) (hk : p.work = some k) :
    stopCommand s = stopEnd { s.merged r.handle w p k with pubUnit := .ready } := by
  simp only [stopCommand, hs, stopHeld, hu, abandonPublish_merged hp hk]

/-! ### The end (R103) -/

/-- The engine IDLE and STOP completed, with the rest of the engine and the events as given. -/
def State.stopped (s : State) (e : Engine) (v : EventUnit) : State :=
  { s with
    engine := { e with
      state := .idle, heldFrom := none, purpose := none, run := none, urgentRun := none, context := none,
      regularPending := false, urgentRequested := false, restartPass := false, restartUrgent := false },
    events := v.raised .engineIdle,
    cmd := { s.cmd with results := resultWords [], status := .done, busy := false } }

theorem stopPass_running (hr : s.engine.run = some m) (hv : s.engine.working = some v) :
    stopPass s =
      { s with
        engine := { s.engine with run := none, cursor := 0, passReport := v.aborted, working := none },
        events := s.events.raised .passDone } := by
  simp [stopPass, hr, hv, writePass, modEngine, raise, WorkReport.ended, WorkReport.aborted, EventUnit.raised]

theorem stopPass_idle (hr : s.engine.run = none) : stopPass s = s := by
  have same : ({ s.engine with run := none } : Engine) = s.engine := by rw [← hr]
  simp [stopPass, hr, modEngine, same]

theorem writeUrgent_running (hu : s.engine.urgentRun = some u) :
    writeUrgent .aborted s =
      { s with
        engine := { s.engine with urgentReport := u.work.aborted, urgentRun := none },
        events := s.events.raised .urgentDone } := by
  simp only [writeUrgent, hu]
  rfl

theorem writeUrgent_idle (hu : s.engine.urgentRun = none) : writeUrgent .aborted s = s := by
  simp [writeUrgent, hu]

theorem stopIdle_eq (hr : s.engine.run = none) (hu : s.engine.urgentRun = none) (hc : s.engine.context = none) :
    stopIdle s = s.stopped s.engine s.events := by
  unfold State.stopped
  rw [← hr, ← hu, ← hc]
  rfl

/-- The end with a pass in progress, the context having been given up. -/
theorem stopEnd_pass (ha : abandonContext t = a) (hc : a.engine.context = none) (hr : a.engine.run = some m)
    (hv : a.engine.working = some v) (hu : a.engine.urgentRun = none) :
    stopEnd t = boundaryChoice (a.stopped { a.engine with passReport := v.aborted, working := none, cursor := 0 }
      (a.events.raised .passDone)) := by
  unfold stopEnd
  rw [ha, stopPass_running hr hv, writeUrgent_idle (s := { a with
      engine := { a.engine with run := none, cursor := 0, passReport := v.aborted, working := none },
      events := a.events.raised .passDone }) hu,
    stopIdle_eq (s := { a with
      engine := { a.engine with run := none, cursor := 0, passReport := v.aborted, working := none },
      events := a.events.raised .passDone }) rfl hu hc]
  rfl

/-- The end with a pass and an urgent run in progress. -/
theorem stopEnd_both (ha : abandonContext t = a) (hc : a.engine.context = none) (hr : a.engine.run = some m)
    (hv : a.engine.working = some v) (hu : a.engine.urgentRun = some u) :
    stopEnd t = boundaryChoice (a.stopped
      { a.engine with
        passReport := v.aborted, working := none, cursor := 0, urgentReport := u.work.aborted }
      ((a.events.raised .passDone).raised .urgentDone)) := by
  unfold stopEnd
  rw [ha, stopPass_running hr hv, writeUrgent_running (s := { a with
      engine := { a.engine with run := none, cursor := 0, passReport := v.aborted, working := none },
      events := a.events.raised .passDone }) hu,
    stopIdle_eq (s := { a with
      engine := { a.engine with
        run := none, cursor := 0, passReport := v.aborted, working := none, urgentReport := u.work.aborted,
        urgentRun := none },
      events := (a.events.raised .passDone).raised .urgentDone }) rfl rfl hc]
  rfl

/-- The end with an urgent run alone. -/
theorem stopEnd_urgent (ha : abandonContext t = a) (hc : a.engine.context = none) (hr : a.engine.run = none)
    (hu : a.engine.urgentRun = some u) :
    stopEnd t = boundaryChoice (a.stopped { a.engine with urgentReport := u.work.aborted }
      (a.events.raised .urgentDone)) := by
  unfold stopEnd
  rw [ha, stopPass_idle hr, writeUrgent_running hu, stopIdle_eq (s := { a with
      engine := { a.engine with urgentReport := u.work.aborted, urgentRun := none },
      events := a.events.raised .urgentDone }) hr rfl hc]
  rfl

/-- The end with neither. -/
theorem stopEnd_neither (ha : abandonContext t = a) (hc : a.engine.context = none) (hr : a.engine.run = none)
    (hu : a.engine.urgentRun = none) : stopEnd t = boundaryChoice (a.stopped a.engine a.events) := by
  unfold stopEnd
  rw [ha, stopPass_idle hr, writeUrgent_idle hu, stopIdle_eq hr hu hc]

/-- With no drain due, the engine stays IDLE. -/
theorem boundaryChoice_stopped (e : Engine) (v : EventUnit) (hd : e.drainQueue = []) :
    boundaryChoice (s.stopped e v) = s.stopped e v :=
  boundaryChoice_quiet ⟨rfl, rfl, rfl, rfl, rfl, hd, rfl⟩

/-! ### The report that ends STOPPING (R98, R102) -/

/-- The state when a report has been counted, in the pass or in the run that its publish was made for. -/
def State.counted (s : State) (pu : Purpose) (h : Handle) (rep : UnitReport) : State :=
  { s with
    engine := { s.engine with
      purpose := none, heldFrom := none,
      working := if pu = .regular then s.engine.working.map (WorkReport.count h.index rep) else s.engine.working,
      urgentRun :=
        if pu = .urgent then
          s.engine.urgentRun.map fun u => { u with work := u.work.count h.index rep }
        else s.engine.urgentRun } }

theorem takeReport_stopping (hp : s.engine.purpose = some pu) (hs : s.engine.state = .stopping)
    (hd : pu = .drain → rep ≠ .abandoned .storeError) :
    takeReport h rep s = stopEnd (s.counted pu h rep) := by
  have counted : account pu h rep (modEngine (fun e => { e with purpose := none, heldFrom := none }) s) =
      s.counted pu h rep := by
    cases pu with
    | regular => rfl
    | urgent => rfl
    | drain => exact if_neg (hd rfl)
  simp only [takeReport, hp, counted]
  exact if_pos hs

/-- The count of a pass's end is that of the report, whether or not the pass has made a line copy. -/
theorem aborted_count_copied (v : WorkReport) (i : SlotId) (rep : UnitReport) :
    (({ v with copied := true } : WorkReport).count i rep).aborted = (v.count i rep).aborted := by
  cases rep with
  | abandoned c => cases c <;> rfl
  | _ => rfl

/-- The engine that a report finds at a boundary that has made a line copy. -/
theorem engine_noted (e : Engine) :
    (if e.purpose = some .regular then
        { e with working := e.working.map fun v => { v with copied := true } } else e) =
      { e with
        working := e.working.map fun v => if e.purpose = some .regular then { v with copied := true } else v } := by
  by_cases hp : e.purpose = some .regular <;> simp [hp]

end Sys2Proof.Machine

namespace Sys2Proof

open Machine

/-- Settles O31: the pass, the run and the context by what each was doing, for every report that can end STOPPING. -/
theorem stopEndsThePublishInProgress : Obligations.StopEndsThePublishInProgress := by
  refine ⟨fun cnt s ha => ⟨fun hs => ?_, fun hs => ⟨fun r n hu => ?_, fun r n bs hu => ?_⟩⟩,
    fun s r n bs w p k m v hr hg hu ha hp hk hi hs hpu hrun hv hc hur hd hq => ?_,
    fun cnt s r w p k ha hs hu hp hk => ?_,
    fun s r n bs w p k pu i g count hr hg hu hp hk hi hs hpu hret hcase => ?_,
    fun s h l w p x hs hu hur hrq hc hd hp hw hdi hn => ?_⟩
  · rw [exec_stop ha, stopCommand_idle (s := s.taking codeStop cnt) hs]
    rfl
  · rw [exec_stop ha, stopCommand_asks (s := s.taking codeStop cnt) hs,
      requestAbandon_reading (s := (s.taking codeStop cnt).stopping) .stop hu]
    rfl
  · rw [exec_stop ha, stopCommand_asks (s := s.taking codeStop cnt) hs,
      requestAbandon_writing (s := (s.taking codeStop cnt).stopping) .stop hu]
    rfl
  · let b : State := s.lineAbandoned r n bs w p k
    have engine : b.engine = { s.engine with working := some { v with copied := true } } := by
      rw [engine_lineAbandoned_regular hpu, hv]
      rfl
    let t : State := b.counted .regular r.handle (.abandoned .stop)
    have working : t.engine.working = some { v with copied := true } := by
      show b.engine.working.map _ = _
      rw [engine]
      rfl
    have drains : t.engine.drainQueue = [] := by
      show b.engine.drainQueue = []
      rw [engine]
      exact hd
    have context : t.engine.context = none := by
      show b.engine.context = none
      rw [engine]
      exact hc
    have ends := stopEnd_pass (abandonContext_none context) context (m := m)
      (by show b.engine.run = _; rw [engine]; exact hrun) working
      (by show b.engine.urgentRun = _; rw [engine]; exact hur)
    let x : State := t.stopped { t.engine with
      passReport := v.aborted, working := none, cursor := 0 } (t.events.raised .passDone)
    have report : takeReport r.handle (.abandoned .stop) b = boundaryChoice x :=
      (takeReport_stopping (pu := .regular) (by rw [engine]; exact hpu) (by rw [engine]; exact hs) (by simp)).trans ends
    have stays : boundaryChoice x = x := boundaryChoice_stopped _ _ drains
    rw [exec_lineBoundary_abandons hr hg hu hp hk hi ha (by rw [ha]; decide), report, stays,
      arbitrate_ready (s := x) rfl hq]
    obtain ⟨passDone, engineIdle⟩ := isPending_passEnded (s := x) (t := t) rfl
    exact ⟨_, rfl, rfl, paired?_merged (s := s) hp, rfl, rfl, rfl, rfl, rfl, passDone, engineIdle, rfl, rfl⟩
  · intro stopped ends passEnds
    let f : State := { (s.taking codeStop cnt).merged r.handle w p k with pubUnit := .ready }
    have stops : exec (.stop cnt) s = .next (arbitrate (stopEnd f)) := by
      rw [exec_stop ha, stopCommand_held (s := s.taking codeStop cnt) hs hu hp hk]
    have closes : ∀ a g : State, abandonContext f = a → a.engine = { s.engine with context := none } →
        a.events = s.events → (∀ e v, a.stopped { e with working := none } v = stopped g e v) → passEnds g := by
      intro a g ha he hv hst
      refine ⟨fun m v hr hw hur => ⟨?_, fun hd => ?_⟩, fun m v u hr hw hur => ⟨?_, fun hd => ?_⟩⟩
      · rw [stops, stopEnd_pass (m := m) (v := v) ha (by rw [he]) (by rw [he]; exact hr) (by rw [he]; exact hw)
          (by rw [he]; exact hur), ← hst, he, hv]
        rfl
      · rw [← hst]
        exact boundaryChoice_stopped _ _ hd
      · rw [stops, stopEnd_both (m := m) (v := v) (u := u) ha (by rw [he]) (by rw [he]; exact hr)
          (by rw [he]; exact hw) (by rw [he]; exact hur), ← hst, he, hv]
        rfl
      · rw [← hst]
        exact boundaryChoice_stopped _ _ hd
    refine ⟨fun hc => ⟨?_, fun u hr hw hur => ⟨?_, fun hd => ?_⟩⟩, fun c hc ho => ?_,
      fun c w' p' k' hc ho hne hp' hk' => ?_⟩
    · exact closes f _ (abandonContext_none hc) (by rw [← hc]; rfl) rfl fun e v => rfl
    · rw [stops, stopEnd_urgent (u := u) (abandonContext_none (s := f) hc) hc hr hur]
      simp only [stopped, ← hw]
      rfl
    · refine boundaryChoice_quiet ⟨rfl, rfl, rfl, rfl, rfl, hd, rfl⟩
    · exact closes _ _ (abandonContext_else (s := f) hc ho) rfl rfl fun e v => rfl
    · have matched : f.paired? c.handle = some (w', p') := (paired?_merged_other (s := s) hp hne).trans hp'
      exact closes _ _ (abandonContext_waiting (s := f) hc ho matched hk') rfl rfl fun e v => rfl
  · intro pass urgent ends passEnds
    -- The report, and the state in which the engine takes it.
    have reports : ∃ (rep : UnitReport) (f : WorkReport → WorkReport),
        exec i s = .next (arbitrate (takeReport r.handle rep
          { g with engine := { s.engine with working := s.engine.working.map f } })) ∧
        (∀ v, ((f v).count r.handle.index rep).aborted = (count v).aborted) ∧ (∀ v, v.count r.handle.index rep = count v) ∧
        (∀ v, (f v).aborted = v.aborted) ∧ (pu ≠ .regular → ∀ v, f v = v) ∧
        (pu = .drain → rep ≠ .abandoned .storeError) ∧ g.cmd = s.cmd ∧ g.engine = s.engine ∧
        ∀ x, x ≠ r.handle → g.paired? x = s.paired? x := by
      let noted : WorkReport → WorkReport := fun v =>
        if s.engine.purpose = some .regular then { v with copied := true } else v
      have noted_other : pu ≠ .regular → ∀ v, noted v = v := fun hn v => if_neg (by rw [hpu]; simpa using hn)
      have noted_count : ∀ v rep, ((noted v).count r.handle.index rep).aborted = (v.count r.handle.index rep).aborted := by
        intro v rep
        by_cases hreg : s.engine.purpose = some .regular
        · simp only [noted, if_pos hreg, aborted_count_copied]
        · simp only [noted, if_neg hreg]
      have noted_aborted : ∀ v, (noted v).aborted = v.aborted := fun v => noted_count v .paused
      rcases hcase with ⟨rfl, ⟨c, cs, hab, hc⟩, rfl, rfl⟩ | ⟨rfl, h1, h2, hl, hn, rfl, rfl⟩ | ⟨⟨early, rfl⟩, hd, rfl, rfl⟩
      · have counts : ∀ v : WorkReport, v.count r.handle.index (.abandoned c) = v := by
          rcases hc with rfl | rfl | rfl <;> exact fun v => rfl
        refine ⟨.abandoned c, noted, ?_, fun v => (noted_count v _).trans (by rw [counts]), counts, noted_aborted,
          noted_other, fun _ => ?_, rfl, rfl, fun x hx => paired?_merged_other (s := s) hp hx⟩
        · rw [exec_lineBoundary_abandons hr hg hu hp hk hi hab hret, State.lineAbandoned, engine_noted]
        · rcases hc with rfl | rfl | rfl <;> simp
      · refine ⟨.flipped, noted, ?_, fun v => noted_count v _, fun v => rfl, noted_aborted, noted_other,
          fun _ => by simp, rfl, rfl, fun x hx => paired?_flipped_other (s := s) hp hx⟩
        rw [exec_lineBoundary_flips true hr hg hu hp hk hl hi hn (.inr ⟨rfl, h1, h2, hret⟩), State.lineFlipped,
          engine_noted]
      · refine ⟨.abandoned .storeError, id, ?_, fun v => rfl, fun v => rfl, fun v => rfl, fun _ v => rfl,
          fun hdr => absurd hdr hd, rfl, rfl, fun x hx => paired?_merged_other (s := s) hp hx⟩
        have same : ({ s.engine with working := s.engine.working.map id } : Engine) = s.engine := by simp
        rw [exec_lineBoundary true early hr hg hu hp hi, same]
        simp only [copyWriteDone, if_true]
        rw [failedBoundary_abandons (s := storeWriteFailed (bankLine w p r.idle n) bs.length (giveUp s)) _ true hret
          hp hk]
        rfl
    obtain ⟨rep, f, hexec, hpass, hrun, hab, hid, hdr, hcmd, hge, hother⟩ := reports
    let x : State := { g with engine := { s.engine with working := s.engine.working.map f } }
    let t : State := x.counted pu r.handle rep
    have stops : exec i s = .next (arbitrate (stopEnd t)) := by
      rw [hexec, takeReport_stopping (s := x) hpu hs hdr]
    have working : ∀ v, s.engine.working = some v → ∃ v', t.engine.working = some v' ∧ v'.aborted = pass v := by
      intro v hv
      show ∃ v', (if pu = .regular then (s.engine.working.map f).map _ else s.engine.working.map f) = some v' ∧ _
      rw [hv]
      by_cases hreg : pu = .regular
      · exact ⟨_, if_pos hreg, by simp only [pass, if_pos hreg, hpass]⟩
      · exact ⟨_, if_neg hreg, by simp only [pass, if_neg hreg, hab]⟩
    have urgentRun : ∀ y, s.engine.urgentRun = some y →
        ∃ y', t.engine.urgentRun = some y' ∧ y'.work.aborted = urgent y.work := by
      intro y hy
      show ∃ y', (if pu = .urgent then s.engine.urgentRun.map _ else s.engine.urgentRun) = some y' ∧ _
      rw [hy]
      by_cases hur : pu = .urgent
      · exact ⟨_, if_pos hur, by simp only [urgent, if_pos hur, hrun]⟩
      · exact ⟨_, if_neg hur, by simp only [urgent, if_neg hur]⟩
    have noUrgent : s.engine.urgentRun = none → t.engine.urgentRun = none := by
      intro hy
      show (if pu = .urgent then s.engine.urgentRun.map _ else s.engine.urgentRun) = none
      rw [hy]
      exact ite_self none
    have kept : pu ≠ .regular → t.engine.working = s.engine.working := by
      intro hreg
      show (if pu = .regular then _ else s.engine.working.map f) = _
      rw [if_neg hreg, funext (hid hreg)]
      exact Option.map_id'
    -- What follows once the context has been given up, in the state `a` that the end then finds.
    have closes : ∀ a u : State, abandonContext t = a → a.engine = { t.engine with context := none } →
        a.events = g.events →
        (∀ (e : Engine) (v : EventUnit), a.stopped { e with working := none } v = { u with
          engine := { e with
            state := .idle, heldFrom := none, purpose := none, run := none, urgentRun := none, context := none,
            regularPending := false, urgentRequested := false, restartPass := false, restartUrgent := false,
            working := none },
          events := v.raised .engineIdle,
          cmd := { s.cmd with results := Vector.replicate 8 0, status := .done, busy := false } }) → passEnds u := by
      intro a u ha he hev hst m v hm hv
      obtain ⟨v', hv', hvp⟩ := working v hv
      refine ⟨fun hur => ?_, fun y hy => ?_⟩
      · show exec i s = _
        rw [stops, stopEnd_pass (m := m) (v := v') ha (by rw [he]) (by rw [he]; exact hm) (by rw [he]; exact hv')
          (by rw [he]; exact noUrgent hur), hev, he, hvp]
        exact congrArg (fun z => Host.Outcome.next (arbitrate (boundaryChoice z)))
          (hst { s.engine with passReport := pass v, cursor := 0 } _)
      · obtain ⟨y', hy', hyu⟩ := urgentRun y hy
        show exec i s = _
        rw [stops, stopEnd_both (m := m) (v := v') (u := y') ha (by rw [he]) (by rw [he]; exact hm) (by rw [he]; exact hv')
          (by rw [he]; exact hy'), hev, he, hvp, hyu]
        exact congrArg (fun z => Host.Outcome.next (arbitrate (boundaryChoice z)))
          (hst { s.engine with passReport := pass v, cursor := 0, urgentReport := urgent y.work } _)
    have done : ({ s.cmd with results := Vector.replicate 8 0, status := .done, busy := false } : CommandUnit) =
        { g.cmd with results := resultWords [], status := .done, busy := false } := by
      rw [hcmd, resultWords_nil]
    refine ⟨fun hc => ?_, fun c w' p' k' hc ho hne hp' hk' => ?_, fun hc hm hreg => ⟨fun hur => ?_, fun y hy => ?_⟩⟩
    · have given : abandonContext t = { t with engine := { t.engine with context := none } } := by
        rcases hc with hc | ⟨c, hc, ho⟩
        · rw [abandonContext_none (s := t) hc]
          conv_rhs => rw [← show t.engine.context = none from hc]
        · exact abandonContext_else (s := t) hc ho
      exact closes _ _ given rfl rfl fun e v => by rw [done]; rfl
    · have matched : t.paired? c.handle = some (w', p') := (hother _ hne).trans hp'
      refine closes _ _ (abandonContext_waiting (s := t) hc ho matched hk') rfl rfl fun e v => ?_
      rw [done]
      simp only [State.merged, hge]
      rfl
    · show exec i s = _
      rw [stops, stopEnd_neither (abandonContext_none (s := t) hc) hc hm (noUrgent hur), done]
      simp only [State.stopped, kept hreg]
      rfl
    · obtain ⟨y', hy', hyu⟩ := urgentRun y hy
      show exec i s = _
      rw [stops, stopEnd_urgent (abandonContext_none (s := t) hc) hc hm hy', done, hyu]
      simp only [State.stopped, kept hreg]
      rfl
  · rw [boundaryChoice_drain_starts hu hur hrq hd hc hp (by simp [Paired.drained, hdi]) hn, startedOn_fresh hw]

end Sys2Proof
end

section
/-! The course of an access: of the windows it changes D alone, and neither the publish unit, nor the engine, nor
the command unit changes (R31, R33, R40, R46). -/

namespace Sys2Proof.Machine

/-- The windows agree in everything but D, and the unit, the engine, the command unit and the reset are the same. -/
structure Served (s t : State) : Prop where
  agree : ∀ {α : Type} (f : Window → α), (∀ w d, f (w.setDirty d) = f w) → Agree f s t
  pubUnit : t.pubUnit = s.pubUnit
  engine : t.engine = s.engine
  cmd : t.cmd = s.cmd
  inReset : t.inReset = s.inReset

namespace Served

theorem of_slots {s t : State} (h : t.slots = s.slots) (hu : t.pubUnit = s.pubUnit)
    (he : t.engine = s.engine) (hc : t.cmd = s.cmd) (hr : t.inReset = s.inReset) : Served s t :=
  ⟨fun _ _ => .of_slots h, hu, he, hc, hr⟩

theorem refl (s : State) : Served s s := .of_slots rfl rfl rfl rfl rfl

theorem trans {s t u : State} (h : Served s t) (k : Served t u) : Served s u :=
  ⟨fun f hf => (h.agree f hf).trans (k.agree f hf), k.pubUnit.trans h.pubUnit, k.engine.trans h.engine,
    k.cmd.trans h.cmd, k.inReset.trans h.inReset⟩

theorem of_grantOnly {s t : State} (h : GrantOnly s t) : Served s t :=
  .of_slots h.slots h.pubUnit h.engine h.cmd h.inReset

theorem arbitrate (s : State) : Served s (arbitrate s) := .of_grantOnly (.arbitrate s)

theorem markWrite (a : Access) (s : State) : Served s (markWrite a s) := by
  unfold Machine.markWrite
  split
  · rcases markLine_cases a.handle a.line s with e | ⟨w, l, hw, -, -, ⟨-, e⟩ | ⟨-, e⟩⟩ <;> rw [e]
    · exact .refl s
    all_goals
      exact ⟨fun f hf => (agree_setWindow (window?_eq_some.1 hw).2 (hf _ _)).trans (.of_slots rfl),
        rfl, rfl, rfl, rfl⟩
  · exact .refl s

theorem finishRelease (p : PortId) (h : Handle) (s : State) : Served s (finishRelease p h s) := by
  unfold Machine.finishRelease
  split
  · exact .refl s
  · split
    · exact .of_grantOnly (.trans (t := s.setLock p none) (.setLock _ _ _) (.unlockNotice h _))
    · exact .refl s

theorem handOver (p : PortId) (a : Access) (s : State) : Served s (handOver p a s) := by
  unfold Machine.handOver
  dsimp only
  split
  · exact (markWrite a s).trans (finishRelease p a.handle _)
  · exact markWrite a s

theorem accessWrite (a : Access) (x : Option Nat) (err : Bool) (s : State) :
    Served s (accessWrite a x err s) := by
  unfold Machine.accessWrite
  repeat' split
  all_goals exact .of_slots rfl rfl rfl rfl rfl

theorem answerGiven (p : PortId) (a : Access) (r : Resp) (b : List Byte) (s : State) :
    Served s (Machine.arbitrate (giveUp (answer p a r b s))) :=
  (of_grantOnly ((GrantOnly.answer p a r b s).trans (.giveUp _))).trans (arbitrate _)

theorem storeDone (p : PortId) (a : Access) (x : Option Nat) (err : Bool) (s : State) :
    Served s (storeDone p a x err s) := by
  unfold Machine.storeDone
  split
  · unfold readDone
    split
    · exact answerGiven p a .storeError _ s
    · exact Served.trans (t := { s with fresh := (accessRead a x s).2 }) (.of_slots rfl rfl rfl rfl rfl)
        (answerGiven p a .ok _ _)
  · exact ((accessWrite a x err s).trans (handOver p a _)).trans (answerGiven p a _ _ _)

theorem storeAccessDone (err : Bool) (s : State) : Goes (Served s) (storeAccessDone err s) := by
  unfold Machine.storeAccessDone
  split
  · exact Goes.next (.refl s)
  · split
    · exact Goes.next (.refl s)
    · exact Goes.next (.refl s)
    · split
      · exact Goes.next (storeDone _ _ _ err s)
      · exact Goes.fault _

theorem mergingReadDone (err : Bool) (e : Nat) (s : State) : Goes (Served s) (mergingReadDone err e s) := by
  unfold Machine.mergingReadDone
  split
  · exact Goes.next (.refl s)
  · rename_i p i _
    split
    · exact Goes.next (.refl s)
    · exact Goes.next (.refl s)
    · split
      · exact Goes.next (.refl s)
      · split
        · refine Goes.next ?_
          split
          · exact (handOver p i.acc s).trans (answerGiven p i.acc .storeError [] _)
          · exact (of_grantOnly (.finishCheck _ _ _ _ s)).trans (arbitrate _)
        · exact Goes.fault _

theorem takeAccess (p : PortId) (c : AccessClass) (z : AccessSize) (x : Word) (d : BitVec 64) (s : State) :
    Served s (takeAccess p c z x d s) := by
  have unhit : ∀ r, Served s (answerUnhit p c z (alignAddress x z) r s) := fun r =>
    of_grantOnly ((GrantOnly.accessFault p c _ r none s).trans (.setPort _ _ _))
  unfold Machine.takeAccess
  dsimp only
  split
  · exact unhit _
  · split
    · exact unhit _
    · split
      · exact of_grantOnly (.refuse _ _ _ s)
      · exact (of_grantOnly (.setPort p _ s)).trans (arbitrate _)

theorem tickLock (p : PortId) (s : State) : Served s (tickLock p s) := by
  unfold Machine.tickLock
  split
  · exact .refl s
  · split
    · exact .refl s
    · split
      · exact of_grantOnly (.breakLock p s)
      · exact of_grantOnly (.setLock p _ s)

theorem tickLocks (s : State) : Served s (tickLocks s) :=
  (tickLock 0 s).trans ((tickLock 1 _).trans ((tickLock 2 _).trans (tickLock 3 _)))

theorem holdExpires (p : PortId) (s : State) : Served s (holdExpires p s) := by
  unfold Machine.holdExpires
  split
  · exact of_grantOnly (.breakLock p s)
  · exact .refl s

end Served

end Sys2Proof.Machine
end

section
/-! O58: the law of views through the publish unit, the engine, the commands and the step (R3, R17, R156). -/

namespace Sys2Proof.Machine

/-! ### The law that the walk keeps -/

/-- The law of views, with the laws of the drain queue and the lock table that it leans on. -/
structure ViewLaws (s : State) : Prop where
  drains : DrainsAndLocksSound s
  links : LinksSound s
  retire : RetireSound s

/-- With no RETIRE waiting, its law says nothing. -/
theorem retireSound_of_unretired {s : State} (h : s.unretired) : RetireSound s :=
  fun r hr hx => absurd hx (h r hr)

/-- A waiting RETIRE keeps the command unit BUSY (R156). -/
theorem RetireSound.unretired {s : State} (h : RetireSound s) (hb : s.cmd.busy = false) : s.unretired :=
  fun r hr hx => by
    have := (h r hr hx).1
    rw [hb] at this
    cases this

/-- A waiting RETIRE that stood at the unit before, with the command unit still BUSY and its window without
views. -/
theorem RetireSound.carry {s t : State} (hs : RetireSound s) (ha : Agree Window.links s t)
    (hb : t.cmd.busy = s.cmd.busy)
    (hr : ∀ r, t.pubUnit.record? = some r → AbandonCause.retired ∈ r.abandons →
      ∃ r0, s.pubUnit.record? = some r0 ∧ AbandonCause.retired ∈ r0.abandons ∧ r0.handle = r.handle) :
    RetireSound t := fun r hrec hx => by
  obtain ⟨r0, h0, hx0, hh⟩ := hr r hrec hx
  obtain ⟨hbusy, hn⟩ := hs r0 h0 hx0
  exact ⟨by rw [hb, hbusy], hh ▸ hn.of_agree ha⟩

theorem RetireSound.of_agree {s t : State} (hs : RetireSound s) (ha : Agree Window.links s t)
    (hb : t.cmd.busy = s.cmd.busy) (hu : t.pubUnit = s.pubUnit) : RetireSound t :=
  hs.carry ha hb fun r hr hx => ⟨r, by rw [← hu, hr], hx, rfl⟩

theorem ViewLaws.of_agree {s t : State} (hs : ViewLaws s) (hd : DrainsAndLocksSound t)
    (ha : Agree Window.links s t) (hb : t.cmd.busy = s.cmd.busy) (hu : t.pubUnit = s.pubUnit) : ViewLaws t :=
  ⟨hd, hs.links.of_agree ha, hs.retire.of_agree ha hb hu⟩

theorem ViewLaws.viewsSound {s : State} (hs : ViewLaws s) : ViewsSound s :=
  viewsSound_iff.2 ⟨hs.links, hs.retire⟩

/-! ### The record that the unit goes on with -/

theorem advance_record {s : State} {r q : PublishRecord}
    (h : (advance r s).1.pubUnit.record? = some q) : q = r := by
  unfold advance at h
  split at h
  · cases h
  · split at h
    · cases h; rfl
    · simp [PubUnit.record?] at h

theorem startUnit_record {s : State} {h : Handle} {q : PublishRecord}
    (hq : (startUnit h s).1.pubUnit.record? = some q) : ∃ p, q = newRecord h p := by
  unfold startUnit at hq
  split at hq
  · cases hq
  · exact ⟨_, advance_record hq⟩

theorem startHeld_record {s : State} {h : Handle} {q : PublishRecord}
    (hq : (startHeld h s).pubUnit.record? = some q) : ∃ p, q = newRecord h p := by
  unfold startHeld at hq
  split at hq
  · cases hq
  · cases hq; exact ⟨_, rfl⟩

theorem requestSuspend_record {s : State} {q : PublishRecord}
    (hq : (requestSuspend s).pubUnit.record? = some q) :
    ∃ r, s.pubUnit.record? = some r ∧ q.handle = r.handle ∧ q.abandons = r.abandons := by
  unfold requestSuspend at hq
  split at hq
  · rename_i r n e; cases hq; exact ⟨r, by rw [e]; rfl, rfl, rfl⟩
  · rename_i r n bs e; cases hq; exact ⟨r, by rw [e]; rfl, rfl, rfl⟩
  all_goals exact ⟨q, hq, rfl, rfl⟩

theorem requestAbandon_record {s : State} {c : AbandonCause} {q : PublishRecord}
    (hq : (requestAbandon c s).pubUnit.record? = some q) :
    ∃ r, s.pubUnit.record? = some r ∧ q.handle = r.handle ∧ (∀ x ∈ q.abandons, x ∈ r.abandons ∨ x = c) := by
  unfold requestAbandon at hq
  split at hq
  · rename_i r n e; cases hq; exact ⟨r, by rw [e]; rfl, rfl, by simp⟩
  · rename_i r n bs e; cases hq; exact ⟨r, by rw [e]; rfl, rfl, by simp⟩
  all_goals exact ⟨q, hq, rfl, fun x hx => .inl hx⟩

theorem requestAbandon_slots (c : AbandonCause) (s : State) : (requestAbandon c s).slots = s.slots := by
  unfold requestAbandon
  split <;> rfl

theorem requestAbandon_cmd (c : AbandonCause) (s : State) : (requestAbandon c s).cmd = s.cmd := by
  unfold requestAbandon
  split <;> rfl

theorem requestSuspend_slots (s : State) : (requestSuspend s).slots = s.slots := by
  unfold requestSuspend
  split <;> rfl

theorem requestSuspend_cmd (s : State) : (requestSuspend s).cmd = s.cmd := by
  unfold requestSuspend
  split <;> rfl

theorem mergeWork_cmd (h : Handle) (s : State) : (mergeWork h s).cmd = s.cmd := by
  rcases mergeWork_cases h s with e | ⟨w, p, k, -, -, e⟩ <;> rw [e]
  rfl

theorem flip_cmd (r : PublishRecord) (s : State) : (flip r s).cmd = s.cmd := by
  rcases flip_cases r s with e | ⟨w, p, k, -, -, e⟩ <;> rw [e] <;> rfl

theorem setCopyPosition_cmd (h : Handle) (n : Nat) (s : State) : (setCopyPosition h n s).cmd = s.cmd := by
  rcases setCopyPosition_cases h n s with e | ⟨w, p, k, -, -, e⟩ <;> rw [e]
  rfl

theorem advance_cmd (r : PublishRecord) (s : State) : (advance r s).1.cmd = s.cmd := by
  unfold advance
  split
  · rfl
  · split
    · rfl
    · exact flip_cmd r s

/-! ### The engine -/

theorem unretired_of_new {s : State}
    (h : ∀ q, s.pubUnit.record? = some q → ∃ x p, q = newRecord x p) : s.unretired := fun q hq => by
  obtain ⟨x, p, rfl⟩ := h q hq
  simp [newRecord]

theorem startUnit_unretired (h : Handle) (s : State) : (startUnit h s).1.unretired :=
  unretired_of_new fun _ hq => ⟨h, startUnit_record hq⟩

theorem startHeld_unretired (h : Handle) (s : State) : (startHeld h s).unretired :=
  unretired_of_new fun _ hq => ⟨h, startHeld_record hq⟩

theorem engineKept_unretired : EngineKept State.unretired where
  engineOnly h hs := unretired_congr h.pubUnit hs
  complete _ hs _ := hs
  ready _ := unretired_of_ready rfl
  startUnit h _ _ := startUnit_unretired h _
  startHeld h _ _ := startHeld_unretired h _
  suspend hs q hq := by
    obtain ⟨r, hr, -, ha⟩ := requestSuspend_record hq
    exact ha ▸ hs r hr
  merge h hs := unretired_congr (mergeWork_pubUnit h _) hs
  requeue hs _ _ _ := hs
  pop hs _ _ := hs
  free h hs _ _ := unretired_congr (freeWindow_pubUnit h _) hs

/-- A window at the tail of the drain queue again is still DRAINING (R117). -/
theorem agreeLinks_requeue {s : State} {h : Handle} {q : List Handle} {w : Window} {p : Paired}
    (hs : DrainsAndLocksSound s) (hq : s.engine.drainQueue = h :: q) (hp : s.paired? h = some (w, p))
    (n : Nat) : Agree Window.links s (s.setPaired h.index w { p with drain := some n }) := by
  obtain ⟨⟨-, hmem, -⟩, -⟩ := drainsAndLocksSound_iff.1 hs
  obtain ⟨v, hv, hd⟩ := (hmem h).1 (by rw [hq]; exact List.mem_cons_self)
  obtain ⟨hw, hb⟩ := paired?_eq_some.1 hp
  rw [hw] at hv
  cases hv
  refine agreeLinks_setPaired hp rfl ?_
  simpa [Window.draining, hb] using hd.symm

theorem engineKept_viewLaws : EngineKept ViewLaws where
  engineOnly h hs := hs.of_agree (kept_drainsAndLocksSound.engineOnly h hs.drains) (.of_slots h.slots)
    (congrArg _ h.cmd) h.pubUnit
  complete st hs hu := ⟨kept_drainsAndLocksSound.complete st [] hs.drains, hs.links.of_agree (.of_slots rfl),
    retireSound_of_unretired (unretired_congr rfl hu)⟩
  ready hs := ⟨kept_drainsAndLocksSound.unitReady hs.drains, hs.links.of_agree (.of_slots rfl),
    retireSound_of_unretired (unretired_of_ready rfl)⟩
  startUnit h hs hu := ⟨kept_drainsAndLocksSound.startUnit h hs.drains hu,
    hs.links.of_agree (agreeLinks_startUnit h _), retireSound_of_unretired (startUnit_unretired h _)⟩
  startHeld h hs hu := ⟨kept_drainsAndLocksSound.startHeld h hs.drains hu,
    hs.links.of_agree (agreeLinks_startHeld h _), retireSound_of_unretired (startHeld_unretired h _)⟩
  suspend hs := ⟨kept_drainsAndLocksSound.requestSuspend hs.drains,
    hs.links.of_agree (.of_slots (requestSuspend_slots _)),
    hs.retire.carry (.of_slots (requestSuspend_slots _)) (congrArg _ (requestSuspend_cmd _)) fun q hq hx => by
      obtain ⟨r, hr, hh, ha⟩ := requestSuspend_record hq
      exact ⟨r, hr, ha ▸ hx, hh.symm⟩⟩
  merge h hs := hs.of_agree (kept_drainsAndLocksSound.merge h hs.drains) (agreeLinks_mergeWork h _)
    (congrArg _ (mergeWork_cmd h _)) (mergeWork_pubUnit h _)
  requeue hs hq hp h0 := hs.of_agree (hs.drains.requeue hq hp h0)
    ((agreeLinks_requeue hs.drains hq hp _).trans (.of_slots rfl)) rfl rfl
  pop hs hq hp := hs.of_agree (hs.drains.pop hq hp) (.of_slots rfl) rfl rfl
  free h hs hq hu := ⟨hs.drains.free (locks_of_free_premise hs.drains (.inr hq)),
    hs.links.freeWindow (hs.links.noViews_of_drains ((drainsAndLocksSound_iff.1 hs.drains).1.2.1 h |>.1 hq)),
    retireSound_of_unretired (unretired_of_ready ((freeWindow_pubUnit h _).trans hu))⟩

/-- An abandon other than a RETIRE's keeps the law. -/
theorem ViewLaws.requestAbandon {s : State} {c : AbandonCause} (hs : ViewLaws s) (hc : c ≠ .retired) :
    ViewLaws (requestAbandon c s) :=
  ⟨kept_drainsAndLocksSound.requestAbandon c hs.drains,
    hs.links.of_agree (.of_slots (requestAbandon_slots c s)),
    hs.retire.carry (.of_slots (requestAbandon_slots c s)) (congrArg _ (requestAbandon_cmd c s)) fun q hq hx => by
      obtain ⟨r, hr, hh, ha⟩ := requestAbandon_record hq
      exact ⟨r, hr, (ha _ hx).resolve_right (Ne.symm hc), hh.symm⟩⟩

/-! ### The line boundary -/

theorem ViewLaws.abandonPublish {s : State} (h : Handle) (hs : ViewLaws s) : ViewLaws (abandonPublish h s) :=
  engineKept_viewLaws.ready (engineKept_viewLaws.merge h hs)

/-- The window of a waiting RETIRE has no views, and is freed at the boundary (R156). -/
theorem ViewLaws.retireAtBoundary {s : State} {h : Handle} (hs : ViewLaws s) (hn : NoViews h s) :
    ViewLaws (retireAtBoundary h s) := by
  have hslots : (breakWindowLock h (unitReady s)).slots = s.slots := by rw [breakWindowLock_only]; rfl
  have hlinks : LinksSound (breakWindowLock h (unitReady s)) := hs.links.of_agree (.of_slots hslots)
  exact ⟨kept_drainsAndLocksSound.retireAtBoundary h hs.drains,
    (hlinks.freeWindow (hn.of_agree (.of_slots hslots))).of_agree (.of_slots rfl),
    retireSound_of_unretired (unretired_of_ready (by simp [Machine.retireAtBoundary]))⟩

/-- The unit goes on with a record that asks for no RETIRE that was not asked for. -/
theorem ViewLaws.withUnit {s : State} {r0 : PublishRecord} (u : PubUnit) (hs : ViewLaws s)
    (h0 : s.pubUnit.record? = some r0)
    (hr : ∀ r, u.record? = some r → r.handle = r0.handle ∧ r.idle = r0.idle ∧ r.abandons = r0.abandons) :
    ViewLaws { s with pubUnit := u } :=
  ⟨kept_drainsAndLocksSound.sameRecord u hs.drains h0 fun r h => ⟨(hr r h).1.symm, (hr r h).2.1.symm⟩,
    hs.links.of_agree (.of_slots rfl),
    hs.retire.carry (.of_slots rfl) rfl fun r h hx => ⟨r0, h0, (hr r h).2.2 ▸ hx, (hr r h).1.symm⟩⟩

theorem ViewLaws.advance {s : State} {r0 r : PublishRecord} (hs : ViewLaws s)
    (h0 : s.pubUnit.record? = some r0)
    (hr : r.handle = r0.handle ∧ r.idle = r0.idle ∧ r.abandons = r0.abandons) :
    ViewLaws (advance r s).1 :=
  ⟨kept_drainsAndLocksSound.advance r hs.drains (.inl ⟨r0, h0, hr.1.symm, hr.2.1.symm⟩),
    hs.links.of_agree (agreeLinks_advance r s),
    hs.retire.carry (agreeLinks_advance r s) (congrArg _ (advance_cmd r s)) fun q hq hx => by
      rw [advance_record hq] at hx ⊢
      exact ⟨r0, h0, hr.2.2 ▸ hx, hr.1.symm⟩⟩

/-- What the boundary does for the requests in `q`, with the record `r` that the publish goes on with. -/
theorem ViewLaws.boundaryAction {s : State} {r0 q r : PublishRecord} (hs : ViewLaws s)
    (h0 : s.pubUnit.record? = some r0)
    (hr : r.handle = r0.handle ∧ r.idle = r0.idle ∧ r.abandons = r0.abandons)
    (hq : AbandonCause.retired ∈ q.abandons → AbandonCause.retired ∈ r0.abandons) :
    ViewLaws (boundaryAction q r s).1 := by
  unfold Machine.boundaryAction
  split
  · rename_i hc
    split
    · rename_i hx
      exact hs.retireAtBoundary (hr.1 ▸ (hs.retire r0 h0 (hq (hc ▸ hx))).2)
    · exact hs.abandonPublish _
  · split
    · exact engineKept_viewLaws.ready hs
    · split
      · exact hs.withUnit _ h0 fun x hx => by cases hx; exact hr
      · have := hs.advance h0 hr
        split <;> simp_all

/-- A boundary that frees no window leaves the links as they are. -/
theorem boundaryAction_agreeLinks {q r : PublishRecord} (s : State)
    (hq : AbandonCause.retired ∉ q.abandons) : Agree Window.links s (boundaryAction q r s).1 := by
  unfold boundaryAction
  split
  · rename_i hc
    rw [if_neg (hc ▸ hq)]
    exact (agreeLinks_mergeWork r.handle s).trans (.of_slots rfl)
  · split
    · exact .of_slots rfl
    · split
      · exact .of_slots rfl
      · have := agreeLinks_advance r s
        split <;> simp_all

/-- The requests that a boundary taken early finds hold a RETIRE only where one was asked for. -/
theorem retired_of_older {r : PublishRecord} (h : AbandonCause.retired ∈ r.older.abandons) :
    AbandonCause.retired ∈ r.abandons := by
  simp only [PublishRecord.older, List.mem_append] at h
  rcases h with h | h
  · exact List.mem_of_mem_take h
  · split at h
    · simp at h
    · cases h

theorem ViewLaws.boundary {s : State} {r : PublishRecord} (early : Bool) (hs : ViewLaws s)
    (h0 : s.pubUnit.record? = some r) : ViewLaws (boundary early r s).1 := by
  unfold Machine.boundary
  split
  · have hacted : ViewLaws (Machine.boundaryAction r.older r.wait s).1 :=
      hs.boundaryAction h0 ⟨rfl, rfl, rfl⟩ retired_of_older
    unfold freeAfter
    split
    · rename_i hx
      obtain ⟨-, hret, hnot⟩ := hx
      exact hacted.retireAtBoundary ((hs.retire r h0 hret).2.of_agree (boundaryAction_agreeLinks s hnot))
    · exact hacted
  · exact hs.boundaryAction h0 ⟨rfl, rfl, rfl⟩ id

theorem offerFault_only (f : FaultRecord) (s : State) : EngineOnly s (offerFault f s) := by
  unfold offerFault
  split <;> exact ⟨rfl, rfl⟩

theorem ViewLaws.failedBoundary {s : State} {r : PublishRecord} (a : Nat) (wr : Bool) (hs : ViewLaws s)
    (h0 : s.pubUnit.record? = some r) : ViewLaws (failedBoundary r a wr s).1 := by
  let t := raise .publishFault (offerFault (.lineCopy (BitVec.ofNat 32 a) wr r.handle.index) s)
  have hfault : EngineOnly s t := (offerFault_only _ s).trans (.raise _ _)
  have ht : ViewLaws t := engineKept_viewLaws.engineOnly hfault hs
  unfold Machine.failedBoundary
  dsimp only
  split
  · rename_i hx
    exact ht.retireAtBoundary ((hs.retire r h0 hx).2.of_agree (.of_slots hfault.slots))
  · exact ht.abandonPublish _

end Sys2Proof.Machine
end

section
/-! O58: the law of views through the line copies, the commands and the step (R3, R17, R156). -/

namespace Sys2Proof.Machine

/-! ### Line copies and the continue -/

/-- A change of neither the slots, nor the unit, nor the command unit. -/
theorem ViewLaws.of_outer {s t : State} (hs : ViewLaws s) (hd : DrainsAndLocksSound t)
    (h : t.slots = s.slots) (hb : t.cmd = s.cmd) (hu : t.pubUnit = s.pubUnit) : ViewLaws t :=
  hs.of_agree hd (.of_slots h) (congrArg _ hb) hu

theorem ViewLaws.served {s t : State} (hs : ViewLaws s) (h : Served s t) : ViewsSound t := by
  have ha : Agree Window.links s t := h.agree _ links_setDirty
  exact viewsSound_iff.2 ⟨hs.links.of_agree ha, hs.retire.of_agree ha (congrArg _ h.cmd) h.pubUnit⟩

theorem ViewLaws.reportBoundary {x : State × Option UnitReport} (h : Handle) (hx : ViewLaws x.1)
    (hu : ∀ r, x.2 = some r → r ≠ .paused → x.1.pubUnit = .ready) : ViewLaws (reportBoundary h x) :=
  engineKept_viewLaws.takeReport? h x.2 hx hu

theorem ViewLaws.copyReadDone {s : State} {r : PublishRecord} (n a len : Nat) (err : Bool) (hs : ViewLaws s)
    (h0 : s.pubUnit.record? = some r) : ViewLaws (copyReadDone r n a len err s) := by
  unfold Machine.copyReadDone
  split
  · exact .reportBoundary _ (hs.failedBoundary _ _ h0) (fun _ _ _ => Kept.failedBoundary_ready _ _ _ _)
  · exact hs.withUnit _ h0 fun q hq => by cases hq; exact ⟨rfl, rfl, rfl⟩

theorem ViewLaws.copyWriteDone {s : State} {r : PublishRecord} (n a : Nat) (bs : List Byte)
    (err early : Bool) (hs : ViewLaws s) (h0 : s.pubUnit.record? = some r) :
    ViewLaws (copyWriteDone r n a bs err early s) := by
  unfold Machine.copyWriteDone
  split
  · have failed : ViewLaws (storeWriteFailed a bs.length s) :=
      hs.of_outer (kept_drainsAndLocksSound.failedWrite _ _ hs.drains) rfl rfl rfl
    exact .reportBoundary _ (failed.failedBoundary _ _ h0) (fun _ _ _ => Kept.failedBoundary_ready _ _ _ _)
  · have written : ViewLaws (storeWrite a bs s) :=
      hs.of_outer (kept_drainsAndLocksSound.store _ _ hs.drains) rfl rfl rfl
    have noted := engineKept_viewLaws.engineOnly (.noteCopied _) written
    have placed : ViewLaws (setCopyPosition r.handle (n + 1) (noteCopied (storeWrite a bs s))) :=
      noted.of_agree (kept_drainsAndLocksSound.position _ _ noted.drains)
        (agreeLinks_setCopyPosition _ _ _) (congrArg _ (setCopyPosition_cmd _ _ _))
        (setCopyPosition_pubUnit _ _ _)
    refine .reportBoundary _ (placed.boundary early ?_) (fun _ h1 h2 => Kept.boundary_ready h1 h2)
    rw [setCopyPosition_pubUnit, (EngineOnly.noteCopied _).pubUnit, storeWrite_pubUnit]
    exact h0

theorem unitStep_viewsSound {s : State} {f : State → State} (hs : ViewLaws s)
    (h : ∀ t, ViewLaws t → t.pubUnit = s.pubUnit → ViewLaws (f t)) : Goes ViewsSound (unitStep f s) := by
  have given : ViewLaws (giveUp s) := hs.of_outer (kept_drainsAndLocksSound.giveUp hs.drains) rfl rfl rfl
  exact Goes.next ((h _ given rfl).served (.arbitrate _))

theorem lineCopyReadDone_viewsSound {s : State} (err : Bool) (hs : ViewLaws s) :
    Goes ViewsSound (lineCopyReadDone err s) := by
  have same := Goes.next (P := ViewsSound) hs.viewsSound
  unfold lineCopyReadDone
  split
  · split
    · exact same
    · exact same
    · exact same
    · exact same
    · rename_i r n hu
      split
      · exact unitStep_viewsSound hs fun t ht _ => engineKept_viewLaws.ready ht
      · split
        · exact unitStep_viewsSound hs fun t ht hp => ht.copyReadDone _ _ _ _ (by rw [hp, hu]; rfl)
        · exact Goes.fault _
    · split
      · refine unitStep_viewsSound hs fun t ht _ => ?_
        unfold orphanReadDone
        split
        · exact engineKept_viewLaws.orphanEnd ht
        · exact ⟨kept_drainsAndLocksSound.unit (.orphanWriting _ _) ht.drains fun r hr => (by cases hr),
            ht.links.of_agree (.of_slots rfl), retireSound_of_unretired fun r hr => (by cases hr)⟩
      · exact Goes.fault _
  · exact same

theorem lineBoundary_viewsSound {s : State} (err early : Bool) (hs : ViewLaws s) :
    Goes ViewsSound (lineBoundary err early s) := by
  have same := Goes.next (P := ViewsSound) hs.viewsSound
  unfold lineBoundary
  split
  · split
    · exact same
    · exact same
    · exact same
    · exact same
    · rename_i r n bs hu
      split
      · exact unitStep_viewsSound hs fun t ht _ => engineKept_viewLaws.ready ht
      · split
        · exact unitStep_viewsSound hs fun t ht hp => ht.copyWriteDone _ _ _ _ _ (by rw [hp, hu]; rfl)
        · exact Goes.fault _
    · split
      · refine unitStep_viewsSound hs fun t ht _ => engineKept_viewLaws.orphanEnd ?_
        split
        · exact ht.of_outer (kept_drainsAndLocksSound.failedWrite _ _ ht.drains) rfl rfl rfl
        · exact ht.of_outer (kept_drainsAndLocksSound.store _ _ ht.drains) rfl rfl rfl
      · exact Goes.fault _
  · exact same

theorem ViewLaws.leavePaused {s : State} {r : PublishRecord} (hs : ViewLaws s)
    (h0 : s.pubUnit.record? = some r) : ViewLaws (leavePaused r s) := by
  have left := engineKept_viewLaws.engineOnly (.leaveHeld s) hs
  have hadv : ViewLaws (Machine.advance r (leaveHeld s)).1 := left.advance h0 ⟨rfl, rfl, rfl⟩
  have hready := @Kept.advance_ready (leaveHeld s) r
  unfold Machine.leavePaused
  split
  · rename_i t ht
    rw [ht] at hadv hready
    exact engineKept_viewLaws.takeReport _ _ hadv (hready rfl)
  · rename_i t ht
    rw [ht] at hadv
    exact hadv

theorem takeContinue_viewsSound {s : State} (hs : ViewLaws s) : ViewsSound (takeContinue s) := by
  have taken : ViewLaws { s with continues := s.continues - 1 } :=
    hs.of_outer (kept_drainsAndLocksSound.outer hs.drains ⟨rfl, rfl, rfl, rfl, rfl, rfl, rfl, rfl⟩) rfl rfl rfl
  unfold takeContinue
  dsimp only
  split
  · exact taken.viewsSound
  · exact taken.viewsSound
  · exact taken.viewsSound
  · exact taken.viewsSound
  · exact taken.viewsSound
  · rename_i r hu
    split
    · exact taken.viewsSound
    · exact (taken.leavePaused (by rw [hu]; rfl)).served (.arbitrate _)

/-! ### The commands

An accepted command found the command unit IDLE, so that no RETIRE waits at the unit. -/

/-- The command leaves the unit as it is, at which no RETIRE waits. -/
theorem ViewLaws.of_links {s t : State} (hu : s.unretired) (hd : DrainsAndLocksSound t) (hl : LinksSound t)
    (hp : t.pubUnit = s.pubUnit) : ViewLaws t :=
  ⟨hd, hl, retireSound_of_unretired (unretired_congr hp hu)⟩

theorem ViewLaws.aside {s t : State} (hs : ViewLaws s) (hu : s.unretired) (hd : DrainsAndLocksSound t)
    (h : Aside s t) : ViewLaws t := .of_links hu hd (hs.links.of_agree (.of_slots h.slots)) h.pubUnit

theorem ViewLaws.refuse {s : State} (st : Status) (hs : ViewLaws s) (hu : s.unretired) :
    ViewLaws (refuseCommand st s) := engineKept_viewLaws.complete st hs hu

/-- OPEN opens no VIEW, and its window has no views (R7). -/
theorem openBody_links {k : Kind} {l a b : Word} {x : Body} (h : openBody k l a b = some x) (w : Window) :
    ({ w with body := x } : Window).source? = none ∧
      ∀ n, ({ w with body := x } : Window).views? = some n → n = 0 := by
  unfold openBody at h
  split at h
  · cases h
  · split at h
    · cases h; exact ⟨rfl, fun _ h => by cases h⟩
    · cases h; exact ⟨rfl, fun _ h => by cases h⟩
    · split at h
      · cases h; exact ⟨rfl, fun _ h => by cases h; rfl⟩
      · cases h
    · cases h

theorem openOperands_links {s : State} {w : Window} (h : openOperands s = some w) :
    w.source? = none ∧ ∀ n, w.views? = some n → n = 0 := by
  unfold openOperands at h
  simp only [Option.bind_eq_bind, Option.bind_eq_some_iff] at h
  obtain ⟨_, _, ls, _, rm, _, wm, _, g, _, b, hb, h⟩ := h
  split at h
  · cases h
    exact openBody_links hb
      { base := opr s 2, pages := (field (opr s 3) 0 9).toNat, lineSize := ls, readMask := rm,
        writeMask := wm, group := g, body := b }
  · cases h

theorem LinksSound.complete {s : State} (st : Status) (res : List Word) (hs : LinksSound s) :
    LinksSound (complete st res s) := hs.of_agree (.of_slots rfl)

theorem LinksSound.refuse {s : State} (st : Status) (hs : LinksSound s) : LinksSound (refuseCommand st s) :=
  hs.complete st []

theorem LinksSound.openCommand {s : State} (hs : LinksSound s) : LinksSound (openCommand s) := by
  unfold Machine.openCommand
  split
  · exact hs.refuse _
  · rename_i i hi
    split
    · exact hs.refuse _
    · rename_i w hw
      obtain ⟨hsource, hviews⟩ := openOperands_links hw
      split
      · exact hs.refuse _
      · split
        · exact hs.refuse _
        · split
          · exact hs.refuse _
          · exact hs.fill (freeSlot?_free hi) hviews hsource rfl

theorem LinksSound.viewCommand {s : State} (hs : LinksSound s) : LinksSound (viewCommand s) := by
  unfold Machine.viewCommand
  split
  · exact hs.refuse _
  · rename_i i hi
    split
    · exact hs.refuse _
    · rename_i rm g _
      split
      · exact hs.refuse _
      · rename_i h w hw
        split
        · exact hs.refuse _
        · rename_i hdr
          split
          · exact hs.refuse _
          · exact hs.refuse _
          · exact hs.refuse _
          · rename_i p hb
            have hp : s.paired? h = some (w, p) := paired?_eq_some.2 ⟨(oprWindow_eq_some hw).2, hb⟩
            dsimp only
            split
            · exact hs.refuse _
            · split
              · exact hs.refuse _
              · split
                · exact hs.refuse _
                · exact (hs.fillView (freeSlot?_free hi) (v := viewWindow (opr s 2) rm g h w) rfl rfl hp
                    (by simpa using hdr)).complete _ _

/-- MODIFY leaves a VIEW's write mask empty (R153). -/
theorem LinksSound.modifyCommand {s : State} (hs : LinksSound s) : LinksSound (modifyCommand s) := by
  unfold Machine.modifyCommand
  split
  · exact hs.refuse _
  · rename_i h w hw
    have hm := (window?_eq_some.1 (oprWindow_eq_some hw).2).2
    split
    · exact hs.refuse _
    · split
      · exact hs.refuse _
      · rename_i rm wm g hops
        obtain ⟨-, -, -, hview⟩ := modifyOperands_eq_some.1 hops
        split
        · exact hs.refuse _
        · split
          · exact hs.refuse _
          · refine (hs.of_agree (agree_setWindow hm ?_)).complete _ _
            cases hb : w.body with
            | view src =>
              have hmask := (hs.source h.index w src hm (Window.source?_eq_some.2 hb)).1
              simp [Window.links, Window.source?, Window.views?, Window.draining, hb, hmask,
                hview (by simp [Window.kind, hb])]
            | _ => simp [Window.links, Window.source?, Window.views?, Window.draining, hb]

theorem openCommand_pubUnit (s : State) : (openCommand s).pubUnit = s.pubUnit := by
  unfold openCommand
  repeat' split
  all_goals rfl

theorem viewCommand_pubUnit (s : State) : (viewCommand s).pubUnit = s.pubUnit := by
  unfold viewCommand
  dsimp only
  repeat' split
  all_goals rfl

theorem modifyCommand_pubUnit (s : State) : (modifyCommand s).pubUnit = s.pubUnit := by
  unfold modifyCommand
  repeat' split
  all_goals rfl

/-! ### RETIRE -/

/-- The window of a RETIRE without FLUSH is freed at once, having no views (R155, R156). -/
theorem ViewLaws.retireNow {s : State} {h : Handle} (hs : ViewLaws s) (hu : s.unretired)
    (hl : s.isLocked h = false) (hn : NoViews h s) : ViewLaws (retireNow h s) :=
  .of_links hu
    (kept_drainsAndLocksSound.complete _ _ (hs.drains.free (locks_of_free_premise hs.drains (.inl hl))))
    ((hs.links.freeWindow hn).complete _ _) (freeWindow_pubUnit h s)

/-- A RETIRE that waits at the unit keeps the command unit BUSY, and its window has no views (R156). -/
theorem ViewLaws.requestRetire {s : State} {h : Handle} (hs : ViewLaws s)
    (hb : s.cmd.busy = true) (hh : s.pubUnit.handle? = some h) (hn : NoViews h s) :
    ViewLaws (Machine.requestAbandon .retired s) := by
  have hslots := requestAbandon_slots .retired s
  refine ⟨kept_drainsAndLocksSound.requestAbandon _ hs.drains, hs.links.of_agree (.of_slots hslots), ?_⟩
  intro q hq hx
  obtain ⟨r, hr, hqh, -⟩ := requestAbandon_record hq
  have hrh : r.handle = h := by simpa [handle?_eq, hr] using hh
  refine ⟨by rw [requestAbandon_cmd, hb], ?_⟩
  rw [hqh, hrh]
  exact hn.of_agree (.of_slots hslots)

theorem ViewLaws.retirePaired {s : State} {h : Handle} (hs : ViewLaws s) (hu : s.unretired)
    (hb : s.cmd.busy = true) (hl : s.isLocked h = false) (hn : NoViews h s) : ViewLaws (retirePaired h s) := by
  have ready : ViewLaws (unitReady s) := engineKept_viewLaws.ready hs
  unfold Machine.retirePaired
  split
  · rename_i hh
    split
    · exact engineKept_viewLaws.takeReport _ _
        (ready.retireNow (unretired_of_ready rfl) hl (hn.of_agree (.of_slots rfl)))
        (freeWindow_pubUnit h (unitReady s))
    · exact hs.requestRetire hb hh hn
  · exact hs.retireNow hu hl hn

theorem ViewLaws.enterDraining {s : State} {h : Handle} {w : Window} {p : Paired} (hs : ViewLaws s)
    (hu : s.unretired) (hp : s.paired? h = some (w, p)) (hd : w.draining = false)
    (hl : s.isLocked h = false) (hv : p.views = 0) : ViewLaws (enterDraining h w p s) := by
  let t := Machine.complete .accepted [] (modEngine (fun e => { e with drainQueue := e.drainQueue ++ [h] })
      (s.setPaired h.index w { p with drain := some 0 }))
  have entered : ViewLaws t :=
    .of_links hu (kept_drainsAndLocksSound.complete _ _ (hs.drains.enter hp hd hl))
      (hs.links.enter hp hv rfl) rfl
  unfold Machine.enterDraining
  dsimp only
  split
  · exact engineKept_viewLaws.boundaryChoice entered
  · exact entered

theorem noViews_of_body {s : State} {h : Handle} {w : Window} (hw : s.window? h = some w)
    (hv : ∀ n, w.views? = some n → n = 0) : NoViews h s := fun v n hv' hn => by
  rw [hw] at hv'
  cases hv'
  exact hv n hn

theorem ViewLaws.retireCommand {s : State} (hs : ViewLaws s) (hu : s.unretired) (hb : s.cmd.busy = true) :
    ViewLaws (retireCommand s) := by
  unfold Machine.retireCommand
  dsimp only
  split
  · exact hs.refuse _ hu
  · rename_i h w hw
    have hm := (oprWindow_eq_some hw).2
    split
    · exact hs.refuse _ hu
    · rename_i hl
      have hl : s.isLocked h = false := by simpa using hl
      split
      · exact hs.refuse _ hu
      · split
        · exact hs.refuse _ hu
        · rename_i hdf
          split
          · rename_i hbody; exact hs.retireNow hu hl (noViews_of_body hm (by simp [Window.views?, hbody]))
          · rename_i hbody; exact hs.retireNow hu hl (noViews_of_body hm (by simp [Window.views?, hbody]))
          · rename_i hbody; exact hs.retireNow hu hl (noViews_of_body hm (by simp [Window.views?, hbody]))
          · rename_i p hbody
            split
            · exact hs.refuse _ hu
            · rename_i hviews
              have hv : p.views = 0 := by omega
              split
              · rename_i hf
                exact hs.enterDraining hu (paired?_eq_some.2 ⟨hm, hbody⟩) (by simpa [hf] using hdf) hl hv
              · exact hs.retirePaired hu hb hl (noViews_of_body hm (by simp [Window.views?, hbody, hv]))

/-! ### The engine's commands -/

theorem ViewLaws.seqCommand {s : State} (cnt : BitVec 8) (hs : ViewLaws s) (hu : s.unretired) :
    ViewLaws (seqCommand cnt s) := by
  unfold Machine.seqCommand
  split
  · exact hs.refuse _ hu
  · split
    · exact hs.refuse _ hu
    · rename_i l _
      have listed : ViewLaws (modEngine (fun e => { e with regularSeq := l }) s) :=
        engineKept_viewLaws.modEngine rfl hs
      exact engineKept_viewLaws.seqEffect (fun h => h.requestAbandon (by simp))
        (engineKept_viewLaws.complete .done listed hu)

theorem ViewLaws.useqCommand {s : State} (cnt : BitVec 8) (hs : ViewLaws s) (hu : s.unretired) :
    ViewLaws (useqCommand cnt s) := by
  unfold Machine.useqCommand
  split
  · exact hs.refuse _ hu
  · split
    · exact hs.refuse _ hu
    · rename_i l _
      have listed : ViewLaws (modEngine (fun e => { e with urgentList := l }) s) :=
        engineKept_viewLaws.modEngine rfl hs
      exact engineKept_viewLaws.useqEffect (fun h => h.requestAbandon (by simp))
        (engineKept_viewLaws.complete .done listed hu)

theorem ViewLaws.startCommand {s : State} (hs : ViewLaws s) (hu : s.unretired) : ViewLaws (startCommand s) :=
  engineKept_viewLaws.complete _ (engineKept_viewLaws.regularTrigger hs)
    (engineKept_unretired.regularTrigger hu)

theorem ViewLaws.urgentCommand {s : State} (hs : ViewLaws s) (hu : s.unretired) :
    ViewLaws (urgentCommand s) :=
  engineKept_viewLaws.complete _ (engineKept_viewLaws.urgentTrigger hs)
    (engineKept_unretired.urgentTrigger hu)

theorem ViewLaws.enterStopping {s : State} (hs : ViewLaws s) : ViewLaws (enterStopping s) :=
  ViewLaws.requestAbandon (engineKept_viewLaws.modEngine rfl hs) (by simp)

theorem ViewLaws.stopCommand {s : State} (hs : ViewLaws s) (hu : s.unretired) : ViewLaws (stopCommand s) := by
  unfold Machine.stopCommand
  split
  · exact engineKept_viewLaws.complete _ hs hu
  · exact engineKept_viewLaws.stopHeld hs hu
  · exact hs.enterStopping
  · exact hs.enterStopping
  · exact hs.enterStopping
  · exact hs

/-! ### The resets -/

/-- A restart leaves no publish at the unit (R20, R83). -/
theorem restartUnit_record (s : State) : (restartUnit s).record? = none := by
  unfold restartUnit
  repeat' split
  all_goals rfl

theorem restartCommand_record (s : State) : (restartCommand s).pubUnit.record? = none := by
  rw [(restartCommand_only s).1]
  exact restartUnit_record s

theorem ViewLaws.restartCommand {s : State} (hs : ViewLaws s) : ViewLaws (restartCommand s) := by
  refine ⟨kept_drainsAndLocksSound.restartCommand hs.drains, ?_, retireSound_of_unretired fun r hr => ?_⟩
  · rw [(restartCommand_only s).1]
    exact hs.links.restartEvent.of_agree (.of_slots rfl)
  · rw [restartCommand_record] at hr
    cases hr

theorem linksSound_of_empty {s : State} (h : ∀ i, (s.slot i).win = none) : LinksSound s := by
  refine ⟨fun i w src hw _ => ?_, fun x w n hw _ => ?_⟩
  · rw [h] at hw; cases hw
  · rw [window?_eq_some, h] at hw; cases hw.2

/-! ### The rows and the step -/

/-- The body of a command: the law holds at its start, no RETIRE waits, and the command unit is BUSY. -/
theorem takeCommand_viewsSound {s : State} {code cnt : BitVec 8} {body : State → State} (hs : ViewLaws s)
    (h : ∀ t, ViewLaws t → t.unretired → t.cmd.busy = true → ViewsSound (body t)) :
    Goes ViewsSound (takeCommand code cnt body s) := by
  refine Goes.whenRunning hs.viewsSound ?_
  split
  · exact Goes.next (ViewLaws.viewsSound (hs.of_agree (kept_drainsAndLocksSound.outer hs.drains
      ⟨rfl, rfl, rfl, rfl, rfl, rfl, rfl, rfl⟩) (.of_slots rfl) rfl rfl))
  · rename_i hb
    have hu : s.unretired := hs.retire.unretired (by simpa using hb)
    refine Goes.next (h _ ⟨kept_drainsAndLocksSound.accept _ _ hs.drains, hs.links.of_agree (.of_slots rfl),
      retireSound_of_unretired (unretired_congr rfl hu)⟩ (unretired_congr rfl hu) rfl)

section
variable {s : State} (hs : ViewLaws s) (cnt : BitVec 8)
include hs

theorem execOpen_viewsSound : Goes ViewsSound (execOpen cnt s) :=
  takeCommand_viewsSound hs fun t h hu _ => ViewLaws.viewsSound (.of_links hu
    (kept_drainsAndLocksSound.openCommand h.drains) h.links.openCommand (openCommand_pubUnit t))

theorem execView_viewsSound : Goes ViewsSound (execView cnt s) :=
  takeCommand_viewsSound hs fun t h hu _ => ViewLaws.viewsSound (.of_links hu
    (kept_drainsAndLocksSound.viewCommand h.drains) h.links.viewCommand (viewCommand_pubUnit t))

theorem execModify_viewsSound : Goes ViewsSound (execModify cnt s) :=
  takeCommand_viewsSound hs fun t h hu _ => ViewLaws.viewsSound (.of_links hu
    (kept_drainsAndLocksSound.modifyCommand h.drains) h.links.modifyCommand (modifyCommand_pubUnit t))

theorem execRetire_viewsSound : Goes ViewsSound (execRetire cnt s) :=
  takeCommand_viewsSound hs fun _ h hu hb => (h.retireCommand hu hb).served (.arbitrate _)

theorem execCollect_viewsSound : Goes ViewsSound (execCollect cnt s) :=
  takeCommand_viewsSound hs fun t h hu _ => ViewLaws.viewsSound (.of_links hu
    (kept_drainsAndLocksSound.collect h.drains) (h.links.of_agree (agreeLinks_collectCommand t))
    (collectCommand_pubUnit t))

/-- A command that changes neither the slots nor the unit. -/
theorem aside_viewsSound {code : BitVec 8} {body : State → State} (h : ∀ t, Aside t (body t)) :
    Goes ViewsSound (takeCommand code cnt body s) :=
  takeCommand_viewsSound hs fun t ht hu _ => viewsSound_iff.2
    ⟨ht.links.of_agree (.of_slots (h t).slots), retireSound_of_unretired (unretired_congr (h t).pubUnit hu)⟩

theorem execSeq_viewsSound : Goes ViewsSound (execSeq cnt s) :=
  takeCommand_viewsSound hs fun _ h hu _ => (h.seqCommand cnt hu).served (.arbitrate _)

theorem execUseq_viewsSound : Goes ViewsSound (execUseq cnt s) :=
  takeCommand_viewsSound hs fun _ h hu _ => (h.useqCommand cnt hu).served (.arbitrate _)

theorem execStart_viewsSound : Goes ViewsSound (execStart cnt s) :=
  takeCommand_viewsSound hs fun _ h hu _ => (h.startCommand hu).served (.arbitrate _)

theorem execUrgent_viewsSound : Goes ViewsSound (execUrgent cnt s) :=
  takeCommand_viewsSound hs fun _ h hu _ => (h.urgentCommand hu).served (.arbitrate _)

theorem execStop_viewsSound : Goes ViewsSound (execStop cnt s) :=
  takeCommand_viewsSound hs fun _ h hu _ => (h.stopCommand hu).served (.arbitrate _)

theorem execRestart_viewsSound : Goes ViewsSound (execRestart cnt s) :=
  takeCommand_viewsSound hs fun _ h _ _ => h.restartCommand.viewsSound

end

/-- A command word's command keeps the law (R165). -/
theorem commandWordWrite_viewsSound {s : State} (w : Word) (hs : ViewLaws s) :
    Goes ViewsSound (commandWordWrite w s) := by
  unfold commandWordWrite
  refine Goes.ite (execOpen_viewsSound hs _) ?_
  refine Goes.ite (execView_viewsSound hs _) ?_
  refine Goes.ite (execModify_viewsSound hs _) ?_
  refine Goes.ite (execRetire_viewsSound hs _) ?_
  refine Goes.ite (aside_viewsSound hs _ queryCommand_aside) ?_
  refine Goes.ite (aside_viewsSound hs _ lookupCommand_aside) ?_
  refine Goes.ite (aside_viewsSound hs _ groupCommand_aside) ?_
  refine Goes.ite (execCollect_viewsSound hs _) ?_
  refine Goes.ite (aside_viewsSound hs _ guardCommand_aside) ?_
  refine Goes.ite (aside_viewsSound hs _ unguardCommand_aside) ?_
  refine Goes.ite (aside_viewsSound hs _ guardqCommand_aside) ?_
  refine Goes.ite (execSeq_viewsSound hs _) ?_
  refine Goes.ite (execUseq_viewsSound hs _) ?_
  refine Goes.ite (aside_viewsSound hs _ engsetCommand_aside) ?_
  refine Goes.ite (execStart_viewsSound hs _) ?_
  refine Goes.ite (execUrgent_viewsSound hs _) ?_
  refine Goes.ite (execStop_viewsSound hs _) ?_
  refine Goes.ite (aside_viewsSound hs _ breakCommand_aside) ?_
  refine Goes.ite (aside_viewsSound hs _ portCommand_aside) ?_
  refine Goes.ite (execRestart_viewsSound hs _) ?_
  exact aside_viewsSound hs _ fun _ => .of_eq rfl

/-- A row of the register window that reaches the operands and the events alone. -/
theorem register_viewsSound {s : State} {f : State → State} (hs : ViewLaws s) (h : (f s).slots = s.slots)
    (hb : (f s).cmd.busy = s.cmd.busy) (hu : (f s).pubUnit = s.pubUnit) :
    Goes ViewsSound (whenRunning (fun t => .next (f t)) s) :=
  Goes.whenRunning hs.viewsSound (Goes.next (viewsSound_iff.2
    ⟨hs.links.of_agree (.of_slots h), hs.retire.of_agree (.of_slots h) hb hu⟩))

theorem clearFault_only (v : Word) (s : State) : clearFault v s = { s with events := (clearFault v s).events } := by
  unfold clearFault
  split <;> rfl

theorem execFaultClear_viewsSound {s : State} (v : Word) (hs : ViewLaws s) :
    Goes ViewsSound (execFaultClear v s) :=
  register_viewsSound (f := clearFault v) hs (by rw [clearFault_only]) (by rw [clearFault_only])
    (by rw [clearFault_only])

theorem managementWrite_viewsSound {s : State} (a v : Word) (hs : ViewLaws s) :
    Goes ViewsSound (managementWrite a v s) := by
  unfold managementWrite
  dsimp only
  split
  · exact commandWordWrite_viewsSound v hs
  · split
    · exact register_viewsSound hs rfl rfl rfl
    · split
      · exact register_viewsSound hs rfl rfl rfl
      · split
        · exact execFaultClear_viewsSound v hs
        · split
          · exact register_viewsSound hs rfl rfl rfl
          · exact Goes.next hs.viewsSound

theorem paceExpires_viewsSound {s : State} (hs : ViewLaws s) : ViewsSound (paceExpires s) := by
  unfold paceExpires
  split
  · refine ViewLaws.served (engineKept_viewLaws.regularTrigger ?_) (.arbitrate _)
    exact engineKept_viewLaws.engineOnly ⟨rfl, rfl⟩ hs
  · exact hs.viewsSound

theorem tick_viewsSound {s : State} (hs : ViewLaws s) : ViewsSound (tick s) := by
  have counted := Served.tickLocks s
  have locks : ViewLaws (tickLocks s) :=
    ⟨kept_drainsAndLocksSound.tickLock 3 (kept_drainsAndLocksSound.tickLock 2
        (kept_drainsAndLocksSound.tickLock 1 (kept_drainsAndLocksSound.tickLock 0 hs.drains))),
      (viewsSound_iff.1 (hs.served counted)).1, (viewsSound_iff.1 (hs.served counted)).2⟩
  unfold tick
  split
  · exact hs.viewsSound
  · unfold tickPace
    split
    · exact locks.viewsSound
    · split
      · exact paceExpires_viewsSound locks
      · exact (engineKept_viewLaws.engineOnly ⟨rfl, rfl⟩ locks).viewsSound

theorem Goes.mono {P Q : State → Prop} {r : Result} (h : Goes P r) (hi : ∀ t, P t → Q t) : Goes Q r :=
  fun t ht => hi t (h t ht)

/-- Every command keeps the law. -/
theorem exec_viewsSound {s : State} (c : Instr) (hs : ViewLaws s) : Goes ViewsSound (exec c s) := by
  have same := Goes.next (P := ViewsSound) hs.viewsSound
  cases c with
  | openWindow cnt => exact execOpen_viewsSound hs cnt
  | openView cnt => exact execView_viewsSound hs cnt
  | modify cnt => exact execModify_viewsSound hs cnt
  | retire cnt => exact execRetire_viewsSound hs cnt
  | query cnt => exact aside_viewsSound hs cnt queryCommand_aside
  | lookup cnt => exact aside_viewsSound hs cnt lookupCommand_aside
  | group cnt => exact aside_viewsSound hs cnt groupCommand_aside
  | collect cnt => exact execCollect_viewsSound hs cnt
  | guardSet cnt => exact aside_viewsSound hs cnt guardCommand_aside
  | unguard cnt => exact aside_viewsSound hs cnt unguardCommand_aside
  | guardq cnt => exact aside_viewsSound hs cnt guardqCommand_aside
  | seq cnt => exact execSeq_viewsSound hs cnt
  | useq cnt => exact execUseq_viewsSound hs cnt
  | engset cnt => exact aside_viewsSound hs cnt engsetCommand_aside
  | start cnt => exact execStart_viewsSound hs cnt
  | urgent cnt => exact execUrgent_viewsSound hs cnt
  | stop cnt => exact execStop_viewsSound hs cnt
  | breakOne cnt => exact aside_viewsSound hs cnt breakCommand_aside
  | setLimit cnt => exact aside_viewsSound hs cnt breakCommand_aside
  | port cnt => exact aside_viewsSound hs cnt portCommand_aside
  | restart cnt => exact execRestart_viewsSound hs cnt
  | unknownCommand w => exact commandWordWrite_viewsSound w hs
  | commandWordIgnored w => exact commandWordWrite_viewsSound w hs
  | operandWrite n v => exact register_viewsSound (f := writeOperand n v) hs rfl rfl rfl
  | eventClear v => exact register_viewsSound (f := clearEvents v) hs rfl rfl rfl
  | eventEnableWrite v => exact register_viewsSound (f := writeEnables v) hs rfl rfl rfl
  | faultClear v => exact execFaultClear_viewsSound v hs
  | registerWriteDiscarded a v => exact managementWrite_viewsSound a v hs
  | trigREdge =>
    refine Goes.whenRunning (f := fun t => .next (trigR t)) hs.viewsSound (Goes.next ?_)
    unfold trigR
    split
    · exact (engineKept_viewLaws.regularTrigger hs).served (.arbitrate _)
    · exact hs.viewsSound
  | trigUEdge =>
    refine Goes.whenRunning (f := fun t => .next (trigU t)) hs.viewsSound (Goes.next ?_)
    unfold trigU
    split
    · exact (engineKept_viewLaws.urgentTrigger hs).served (.arbitrate _)
    · exact hs.viewsSound
  | paceExpiry =>
    exact Goes.whenRunning (f := fun t => .next (paceExpires t)) hs.viewsSound
      (Goes.next (paceExpires_viewsSound hs))
  | holdTimerExpiry p =>
    exact Goes.whenRunning (f := fun t => .next (holdExpires p t)) hs.viewsSound
      (Goes.next (hs.served (.holdExpires p s)))
  | coldReset c =>
    refine Goes.next (viewsSound_iff.2 ⟨hs.links.of_agree (.of_slots ?_),
      retireSound_of_unretired (unretired_of_ready rfl)⟩)
    show (interruptStore s).slots = s.slots
    rw [interruptStore_only]
  | coldResetEnd z p =>
    show Goes ViewsSound (execColdResetEnd z p s)
    unfold execColdResetEnd
    split
    · exact same
    · exact Goes.next (viewsSound_iff.2 ⟨linksSound_of_empty fun i => (by rw [slot_cold]),
        retireSound_of_unretired (unretired_of_ready rfl)⟩)
  | requesterAccess p c z a d =>
    show Goes ViewsSound (execRequester p c z a d s)
    unfold execRequester
    refine Goes.whenRunning hs.viewsSound ?_
    split
    · exact same
    · exact Goes.next (hs.served (.takeAccess p c z a d s))
  | storeAccessDone e =>
    exact Goes.whenRunning hs.viewsSound ((Served.storeAccessDone e s).mono fun _ h => hs.served h)
  | mergingReadDone e n =>
    exact Goes.whenRunning hs.viewsSound ((Served.mergingReadDone e n s).mono fun _ h => hs.served h)
  | lineCopyReadDone e => exact Goes.whenRunning hs.viewsSound (lineCopyReadDone_viewsSound e hs)
  | lineBoundary e => exact Goes.whenRunning hs.viewsSound (lineBoundary_viewsSound e.err e.early hs)
  | continuePublish =>
    show Goes ViewsSound (execContinue s)
    unfold execContinue
    refine Goes.whenRunning hs.viewsSound ?_
    split
    · exact same
    · exact Goes.next (takeContinue_viewsSound hs)

end Sys2Proof.Machine

namespace Sys2Proof

open Machine

/-- Settles O58: a view needs an ACTIVE source, a source's view count forbids its RETIRE, and the command unit is
BUSY while a RETIRE waits, so that no VIEW comes between its check and its boundary. -/
theorem stepKeepsTheViewsSound : Obligations.StepKeepsTheViewsSound := by
  intro s t hd hv ht
  obtain ⟨hlinks, hretire⟩ := viewsSound_iff.1 hv
  have hs : ViewLaws s := ⟨hd, hlinks, hretire⟩
  unfold step at ht
  split at ht
  · exact Goes.next (tick_viewsSound hs) t ht
  · rename_i c q _
    have dequeued : ViewLaws { s with pending := q } :=
      hs.of_outer (kept_drainsAndLocksSound.outer hs.drains ⟨rfl, rfl, rfl, rfl, rfl, rfl, rfl, rfl⟩) rfl rfl rfl
    exact exec_viewsSound c dequeued t ht

end Sys2Proof
end

section
/-! O59: the working sets (R75).  What the operations leave of every window's working set and of its draining, and
what the engine's accounting leaves of the engine's account of its publish (R84, R85). -/

namespace Sys2Proof.Machine

/-! ### The windows that have a working set -/

/-- The window is PAIRED and has a W. -/
def Window.works (w : Window) : Bool :=
  match w.body with
  | .plain _ => false
  | .tracked _ _ => false
  | .paired p => p.work.isSome
  | .view _ => false

/-- What the law of working sets reads of a window. -/
def Window.errand (w : Window) : Bool × Bool := (w.works, w.draining)

theorem Window.works_paired {w : Window} {p : Paired} (h : w.body = .paired p) : w.works = p.work.isSome := by
  simp [Window.works, h]

theorem hasWork_iff {s : State} {h : Handle} : s.hasWork h ↔ ∃ w, s.window? h = some w ∧ w.works = true := by
  constructor
  · rintro ⟨w, p, hp, hk⟩
    obtain ⟨hw, hb⟩ := paired?_eq_some.1 hp
    exact ⟨w, hw, by rw [Window.works_paired hb]; exact Option.isSome_iff_ne_none.2 hk⟩
  · rintro ⟨w, hw, hk⟩
    cases hb : w.body with
    | paired p =>
      rw [Window.works_paired hb] at hk
      exact ⟨w, p, paired?_eq_some.2 ⟨hw, hb⟩, Option.isSome_iff_ne_none.1 hk⟩
    | _ => simp [Window.works, hb] at hk

theorem drains_iff {s : State} {h : Handle} :
    s.drains h ↔ ∃ w p, s.paired? h = some (w, p) ∧ p.drain ≠ none := by
  constructor
  · rintro ⟨w, hw, hd⟩
    cases hb : w.body with
    | paired p =>
      exact ⟨w, p, paired?_eq_some.2 ⟨hw, hb⟩, by simpa [Window.draining, hb, Option.isSome_iff_ne_none] using hd⟩
    | _ => simp [Window.draining, hb] at hd
  · rintro ⟨w, p, hp, hd⟩
    obtain ⟨hw, hb⟩ := paired?_eq_some.1 hp
    exact ⟨w, hw, by simpa [Window.draining, hb, Option.isSome_iff_ne_none] using hd⟩

/-- No window gets a working set, and a DRAINING window stays one. -/
structure NoNewWork (s t : State) : Prop where
  work : ∀ h, t.hasWork h → s.hasWork h
  drains : ∀ h, s.drains h → t.drains h

theorem NoNewWork.of_agree {s t : State} (h : Agree Window.errand s t) : NoNewWork s t where
  work x hx := by
    obtain ⟨w, hw, hk⟩ := hasWork_iff.1 hx
    obtain ⟨v, hv, e⟩ := h.window? hw
    exact hasWork_iff.2 ⟨v, hv, (congrArg Prod.fst e).trans hk⟩
  drains x hx := by
    obtain ⟨w, hw, hd⟩ := hx
    obtain ⟨v, hv, e⟩ := h.symm.window? hw
    exact ⟨v, hv, (congrArg Prod.snd e).trans hd⟩

theorem NoNewWork.of_slots {s t : State} (h : t.slots = s.slots) : NoNewWork s t := .of_agree (.of_slots h)

theorem NoNewWork.trans {s t u : State} (h : NoNewWork s t) (k : NoNewWork t u) : NoNewWork s u :=
  ⟨fun x hx => h.work x (k.work x hx), fun x hx => k.drains x (h.drains x hx)⟩

theorem errand_setDirty (w : Window) (d : LineSet) : (w.setDirty d).errand = w.errand := by
  unfold Window.setDirty
  cases hb : w.body <;> simp [Window.errand, Window.works, Window.draining, hb]

/-- A change of the PAIRED fields that keeps W and the drain. -/
theorem agreeErrand_setPaired {s : State} {h : Handle} {w : Window} {p p' : Paired}
    (hp : s.paired? h = some (w, p)) (hk : p'.work.isSome = p.work.isSome)
    (hd : p'.drain.isSome = p.drain.isSome) : Agree Window.errand s (s.setPaired h.index w p') :=
  agree_setPaired hp (by
    simp [Window.errand, Window.works, Window.draining, (paired?_eq_some.1 hp).2, hk, hd])

theorem agreeErrand_setCopyPosition (h : Handle) (n : Nat) (s : State) :
    Agree Window.errand s (setCopyPosition h n s) := by
  rcases setCopyPosition_cases h n s with e | ⟨w, p, k, hp, hk, e⟩ <;> rw [e]
  · exact .of_slots rfl
  · exact agreeErrand_setPaired hp (by simp [hk]) rfl

theorem agreeErrand_dropView (w : Window) (s : State) : Agree Window.errand s (dropView w s) := by
  rcases dropView_cases w s with e | ⟨src, v, p, -, hp, e⟩ <;> rw [e]
  · exact .of_slots rfl
  · exact agreeErrand_setPaired hp rfl rfl

theorem agreeErrand_collectCommand (s : State) : Agree Window.errand s (collectCommand s) := by
  rcases collectCommand_cases s with ⟨st, e⟩ | ⟨h, w, live, hw, ⟨hb, e⟩ | ⟨l, hb, e⟩⟩ <;> rw [e]
  · exact .of_slots rfl
  all_goals
    refine (agree_setWindow (window?_eq_some.1 hw).2 ?_).trans (.of_slots rfl)
    simp [Window.errand, Window.works, Window.draining, hb]

theorem hasWork_setPaired {s : State} {h : Handle} {w : Window} {p p' : Paired}
    (hp : s.paired? h = some (w, p)) (x : Handle) :
    (s.setPaired h.index w p').hasWork x ↔ if x = h then p'.work.isSome = true else s.hasWork x := by
  rw [hasWork_iff, hasWork_iff, window?_setPaired _ hp]
  by_cases hx : x = h
  · simp [hx, Window.works]
  · simp [hx]

theorem not_hasWork_of_unmatched {s : State} {h : Handle} (hn : s.paired? h = none) : ¬s.hasWork h := by
  rintro ⟨w, p, hp, -⟩
  rw [hn] at hp
  cases hp

/-- The window of this handle has no W after the change, and no other window gets one. -/
def Rid (h : Handle) (s t : State) : Prop := ∀ x, t.hasWork x → x ≠ h ∧ s.hasWork x

theorem Rid.of_none {s t : State} {h : Handle} (hn : ¬s.hasWork h) (hw : ∀ x, t.hasWork x → s.hasWork x) :
    Rid h s t := fun x hx => ⟨fun e => hn (e ▸ hw x hx), hw x hx⟩

theorem Rid.then {s t u : State} {h : Handle} (hr : Rid h s t) (hw : ∀ x, u.hasWork x → t.hasWork x) :
    Rid h s u := fun x hx => hr x (hw x hx)

theorem Rid.after {s t u : State} {h : Handle} (hr : Rid h t u) (hw : ∀ x, t.hasWork x → s.hasWork x) :
    Rid h s u := fun x hx => ⟨(hr x hx).1, hw x (hr x hx).2⟩

theorem hasWork_congr {s t : State} (h : t.slots = s.slots) : ∀ x, t.hasWork x → s.hasWork x :=
  (NoNewWork.of_slots h).work

/-- A W taken away, with the pool and the unit as they may be. -/
theorem rid_setPaired {s t : State} {h : Handle} {w : Window} {p p' : Paired}
    (hp : s.paired? h = some (w, p)) (hk : p'.work = none)
    (ht : t.slots = (s.setPaired h.index w p').slots) : Rid h s t := fun x hx => by
  have := (hasWork_setPaired hp x).1 (hasWork_congr ht x hx)
  split at this
  · simp [hk] at this
  · exact ⟨‹_›, this⟩

theorem rid_mergeWork (h : Handle) (s : State) : Rid h s (mergeWork h s) := by
  cases hp : s.paired? h with
  | none => exact .of_none (not_hasWork_of_unmatched hp) (by simp [mergeWork, hp])
  | some x =>
    obtain ⟨w, p⟩ := x
    cases hk : p.work with
    | none =>
      have e : mergeWork h s = s := by simp [mergeWork, hp, hk]
      rw [e]
      refine .of_none ?_ fun _ hx => hx
      rintro ⟨v, q, hq, hw⟩
      rw [hp] at hq
      cases hq
      exact hw hk
    | some k => exact rid_setPaired hp (p' := p.merge) (by simp [Paired.merge, hk]) (by simp [mergeWork, hp, hk])

theorem rid_flip (r : PublishRecord) (s : State) : Rid r.handle s (flip r s) := by
  cases hp : s.paired? r.handle with
  | none => exact .of_none (not_hasWork_of_unmatched hp) (hasWork_congr (by simp [flip, hp, unitReady]))
  | some x =>
    obtain ⟨w, p⟩ := x
    cases hk : p.work with
    | none =>
      refine .of_none ?_ (hasWork_congr (by simp [flip, hp, hk, unitReady]))
      rintro ⟨v, q, hq, hw⟩
      rw [hp] at hq
      cases hq
      exact hw hk
    | some k =>
      exact rid_setPaired hp (p' := p.flipTo r.idle k) rfl (by simp [flip, hp, hk, unitReady])

theorem window?_freed_other {s : State} {h : Handle} {w : Window} (hw : s.window? h = some w) {x : Handle}
    {v : Window} : (s.emptied h w).window? x = some v ↔ x ≠ h ∧ s.window? x = some v := by
  rw [window?_emptied hw]
  split <;> simp_all

theorem rid_freeWindow (h : Handle) (s : State) : Rid h s (freeWindow h s) := by
  cases hw : s.window? h with
  | none =>
    rw [freeWindow_unmatched hw]
    refine .of_none (fun hk => ?_) fun _ hx => hx
    obtain ⟨w, hv, -⟩ := hasWork_iff.1 hk
    rw [hw] at hv
    cases hv
  | some w =>
    rw [freeWindow_matched hw]
    intro x hx
    obtain ⟨v, hv, hk⟩ := hasWork_iff.1 ((NoNewWork.of_agree (agreeErrand_dropView w _)).work x hx)
    obtain ⟨hne, hv⟩ := (window?_freed_other hw).1 hv
    exact ⟨hne, hasWork_iff.2 ⟨v, hv, hk⟩⟩

/-- A freeing leaves the other DRAINING windows. -/
theorem drains_freeWindow {s : State} {h x : Handle} (hne : x ≠ h) (hd : s.drains x) :
    (freeWindow h s).drains x := by
  cases hw : s.window? h with
  | none => rwa [freeWindow_unmatched hw]
  | some w =>
    rw [freeWindow_matched hw]
    obtain ⟨v, hv, hdv⟩ := hd
    exact (NoNewWork.of_agree (agreeErrand_dropView w _)).drains x
      ⟨v, (window?_freed_other hw).2 ⟨hne, hv⟩, hdv⟩

theorem drains_mergeWork {s : State} {h x : Handle} (hd : s.drains x) : (mergeWork h s).drains x := by
  have ha : Agree Window.outline s (mergeWork h s) := agree_mergeWork h s
  exact (ha.drainKind.drains_iff x).2 hd

/-- A filling with a window that has no W. -/
theorem noNewWork_fillSlot {s : State} {i : SlotId} {w : Window} (hi : (s.slot i).win = none)
    (hk : w.works = false) : NoNewWork s (fillSlot i w s) where
  work x hx := by
    obtain ⟨v, hv, hkv⟩ := hasWork_iff.1 hx
    rcases window?_of_fillSlot hv with ⟨-, rfl⟩ | ⟨-, hv⟩
    · rw [hk] at hkv; cases hkv
    · exact hasWork_iff.2 ⟨v, hv, hkv⟩
  drains x hx := by
    obtain ⟨v, hv, hd⟩ := hx
    exact ⟨v, window?_fillSlot w hi hv, hd⟩

/-! ### The engine's account -/

/-- The state, the context and the purpose of the engine. -/
structure Post where
  state : EngineState
  context : Option SuspendedCtx
  purpose : Option Purpose

def Engine.post (e : Engine) : Post := { state := e.state, context := e.context, purpose := e.purpose }

/-- The engine's post, with what it left for HELD and whether an urgent run is in progress. -/
structure Duty where
  post : Post
  heldFrom : Option HeldFrom
  urgent : Bool

def Engine.duty (e : Engine) : Duty :=
  { post := e.post, heldFrom := e.heldFrom, urgent := e.urgentRun.isSome }

/-- The engine alone changes, with its drain queue and its post as they were. -/
structure AtPost (s t : State) : Prop where
  only : EngineOnly s t
  post : t.engine.post = s.engine.post

/-- The engine alone changes, with its drain queue and its duty as they were. -/
structure OnDuty (s t : State) : Prop where
  only : EngineOnly s t
  duty : t.engine.duty = s.engine.duty

namespace AtPost

theorem refl (s : State) : AtPost s s := ⟨.refl s, rfl⟩

theorem trans {s t u : State} (h : AtPost s t) (k : AtPost t u) : AtPost s u :=
  ⟨h.only.trans k.only, k.post.trans h.post⟩

theorem of_onDuty {s t : State} (h : OnDuty s t) : AtPost s t := ⟨h.only, congrArg Duty.post h.duty⟩

theorem modEngine {f : Engine → Engine} {s : State} (hq : (f s.engine).drainQueue = s.engine.drainQueue)
    (hp : (f s.engine).post = s.engine.post) : AtPost s (modEngine f s) := ⟨.modEngine hq, hp⟩

theorem raise (e : Event) (s : State) : AtPost s (raise e s) := ⟨.raise e s, rfl⟩

theorem writeUrgent (st : RunStatus) (s : State) : AtPost s (writeUrgent st s) := by
  unfold Machine.writeUrgent
  split
  · exact refl s
  · exact (modEngine rfl rfl).trans (raise _ _)

theorem beginUrgent (s : State) : AtPost s (beginUrgent s) := by
  unfold Machine.beginUrgent
  dsimp only
  split
  · exact (modEngine rfl rfl).trans (writeUrgent _ _)
  · exact modEngine rfl rfl

theorem urgentEntryEnds (s : State) : AtPost s (urgentEntryEnds s) := by
  unfold Machine.urgentEntryEnds
  split
  · exact refl s
  · dsimp only
    split
    · exact (modEngine rfl rfl).trans (writeUrgent _ _)
    · exact modEngine rfl rfl

end AtPost

namespace OnDuty

theorem refl (s : State) : OnDuty s s := ⟨.refl s, rfl⟩

theorem trans {s t u : State} (h : OnDuty s t) (k : OnDuty t u) : OnDuty s u :=
  ⟨h.only.trans k.only, k.duty.trans h.duty⟩

theorem modEngine {f : Engine → Engine} {s : State} (hq : (f s.engine).drainQueue = s.engine.drainQueue)
    (hp : (f s.engine).duty = s.engine.duty) : OnDuty s (modEngine f s) := ⟨.modEngine hq, hp⟩

theorem raise (e : Event) (s : State) : OnDuty s (raise e s) := ⟨.raise e s, rfl⟩

theorem modWork (f : WorkReport → WorkReport) (s : State) : OnDuty s (modWork f s) := modEngine rfl rfl

theorem modUrgent (f : WorkReport → WorkReport) (s : State) : OnDuty s (modUrgent f s) :=
  modEngine rfl (by simp [Engine.duty, Engine.post])

theorem writePass (st : RunStatus) (s : State) : OnDuty s (writePass st s) := by
  unfold Machine.writePass
  split
  · exact refl s
  · exact (modEngine rfl rfl).trans (raise _ _)

theorem autoUrgentTrigger (s : State) : OnDuty s (autoUrgentTrigger s) := by
  unfold Machine.autoUrgentTrigger
  split
  · exact raise _ s
  · exact modEngine rfl rfl

theorem finishPass (s : State) : OnDuty s (finishPass s) := by
  unfold Machine.finishPass
  split
  · exact refl s
  · rename_i w _
    have h : OnDuty s (Machine.modEngine (fun e => e.afterPass w) (Machine.writePass w.endStatus s)) :=
      (writePass _ s).trans (modEngine rfl rfl)
    dsimp only
    split
    · exact h.trans (autoUrgentTrigger _)
    · exact h

theorem beginPass (s : State) : OnDuty s (beginPass s) := by
  have h : OnDuty s (Machine.modEngine Engine.beginPass s) := modEngine rfl rfl
  unfold Machine.beginPass
  dsimp only
  split
  · exact h.trans (finishPass _)
  · exact h

theorem endSubRun (s : State) : OnDuty s (endSubRun s) := by
  have h : OnDuty s (Machine.raise .stepDone (Machine.modEngine (fun e => { e with run := none }) s)) :=
    (modEngine rfl rfl).trans (raise _ _)
  unfold Machine.endSubRun
  dsimp only
  split
  · exact h.trans (finishPass _)
  · exact h

theorem beginSubRun (s : State) : OnDuty s (beginSubRun s) := by
  have begun : OnDuty s (if s.engine.cursor = 0 then Machine.modEngine Engine.beginPass s else s) := by
    split
    · exact modEngine rfl rfl
    · exact refl s
  unfold Machine.beginSubRun
  generalize (if s.engine.cursor = 0 then Machine.modEngine Engine.beginPass s else s) = t at begun
  dsimp only
  split
  · exact begun.trans ((modEngine rfl rfl).trans (endSubRun _))
  · exact begun.trans (modEngine rfl rfl)

theorem beginRun (s : State) : OnDuty s (beginRun s) := by
  unfold Machine.beginRun
  split
  · exact beginPass s
  · exact beginPass s
  · exact beginSubRun s

theorem entryEnds (s : State) : OnDuty s (entryEnds s) := by
  unfold Machine.entryEnds
  split
  · exact refl s
  · dsimp only
    split
    · split
      · exact (modEngine rfl rfl).trans (endSubRun _)
      · exact modEngine rfl rfl
    · split
      · exact (modEngine rfl rfl).trans (finishPass _)
      · exact modEngine rfl rfl

theorem restartPass (s : State) : OnDuty s (restartPass s) := by
  have h : OnDuty s (Machine.modEngine (fun e => { e with restartPass := false })
      (Machine.writePass .aborted s)) := (writePass _ s).trans (modEngine rfl rfl)
  unfold Machine.restartPass
  dsimp only
  split
  · exact h.trans (modEngine rfl rfl)
  · exact h.trans (beginPass _)

theorem stopPass (s : State) : OnDuty s (stopPass s) := by
  unfold Machine.stopPass
  split
  · exact (writePass _ s).trans (modEngine rfl rfl)
  · exact modEngine rfl rfl

theorem noteCopied (s : State) : OnDuty s (noteCopied s) := by
  unfold Machine.noteCopied
  split
  · exact modWork _ s
  · exact refl s

end OnDuty

/-! ### The suspended context -/

/-- The suspended context is WAITING and of this window. -/
def Engine.awaits (e : Engine) (h : Handle) : Prop :=
  ∃ c, e.context = some c ∧ c.handle = h ∧ c.outcome = .waiting

theorem awaits_congr {e f : Engine} (hc : f.context = e.context) {h : Handle} (ha : e.awaits h) : f.awaits h := by
  obtain ⟨c, h1, h2⟩ := ha
  exact ⟨c, hc.trans h1, h2⟩

theorem not_awaits_of_none {e : Engine} (hc : e.context = none) (h : Handle) : ¬e.awaits h := by
  rintro ⟨c, hs, -⟩
  rw [hc] at hs
  cases hs

theorem resolve_only (e : Engine) (rep : UnitReport) : e.resolve rep = { e with context := (e.resolve rep).context } := by
  unfold Engine.resolve
  split
  · rfl
  · split <;> rfl

theorem adopt_only (e : Engine) (h : Handle) : e.adopt h = { e with context := (e.adopt h).context } := by
  unfold Engine.adopt
  split
  · rfl
  · split <;> rfl

/-- An adopter's report leaves a WAITING context (R113). -/
theorem awaits_resolve {e : Engine} (rep : UnitReport) {h : Handle} (ha : e.awaits h) :
    (e.resolve rep).awaits h := by
  obtain ⟨c, hc, hh, ho⟩ := ha
  have hne : c.outcome ≠ .adopted := by rw [ho]; decide
  refine awaits_congr (e := e) ?_ ⟨c, hc, hh, ho⟩
  simp [Engine.resolve, hc, hne]

theorem resolve_context_none {e : Engine} (rep : UnitReport) (h : e.context = none) :
    (e.resolve rep).context = none := by
  simp [Engine.resolve, h]

/-- No adopter's report makes a context WAITING (R113). -/
theorem after_ne_waiting (rep : UnitReport) : CtxOutcome.after rep .adopted ≠ .waiting := by
  unfold CtxOutcome.after
  repeat' split
  all_goals decide

/-- After its adopter's report an ADOPTED context is not WAITING. -/
theorem resolve_adopted {e : Engine} (rep : UnitReport) (ha : e.adopted = true) (h : Handle) :
    ¬(e.resolve rep).awaits h := by
  unfold Engine.adopted at ha
  split at ha
  · cases ha
  · rename_i c hc
    have ho : c.outcome = .adopted := by simpa using ha
    rintro ⟨d, hd, -, hw⟩
    have e' : (e.resolve rep).context = some { c with outcome := c.outcome.after rep } := by
      simp [Engine.resolve, hc, ho]
    rw [e'] at hd
    cases hd
    rw [ho] at hw
    exact after_ne_waiting rep hw

/-- Adopting takes from the waiting windows the adopter's alone (R113). -/
theorem awaits_adopt {e : Engine} (h : Handle) {x : Handle} (ha : e.awaits x) : x = h ∨ (e.adopt h).awaits x := by
  obtain ⟨c, hc, rfl, ho⟩ := ha
  by_cases hh : c.handle = h
  · exact .inl hh
  · exact .inr (awaits_congr (e := e) (by simp [Engine.adopt, hc, hh]) ⟨c, hc, rfl, ho⟩)

theorem adopt_context_none {e : Engine} (h : Handle) (hc : e.context = none) : (e.adopt h).context = none := by
  simp [Engine.adopt, hc]

end Sys2Proof.Machine
end

section
/-! O59: the law of working sets through the engine's choice, its reports and the end of STOPPING (R75, R84, R85,
R103, R110, R113).  While the unit is READY a W belongs to the WAITING context alone, and each choice gives it to
the publish that it starts, or leaves it there. -/

namespace Sys2Proof.Machine

/-! ### The law, and what it says of a publish -/

/-- The engine accounts for a publish by its purpose: its state, and of a publish that is not regular that no
suspension is asked of it. -/
def Engine.accounts (e : Engine) (suspend : Bool) (drains : Prop) : Prop :=
  (e.purpose = some .regular ∧ e.context = none ∧ e.urgentRun = none ∧
    (e.state = .run ∨ e.state = .stopping ∨ e.state = .held ∧ e.heldFrom = some .run)) ∨
  (e.purpose = some .urgent ∧ suspend = false ∧ e.urgentRun ≠ none ∧
    (e.state = .urgent ∨ e.state = .stopping ∨ e.state = .held ∧ e.heldFrom = some .urgent)) ∨
  (e.purpose = some .drain ∧ suspend = false ∧ (e.state = .drain ∨ e.state = .stopping) ∧ drains)

theorem publishSound_iff {s : State} {r : PublishRecord} : PublishSound s r ↔
    (s.engine.state = .held ↔ s.pubUnit = .paused r) ∧ (s.engine.state = .stopping → r.abandons ≠ []) ∧
      s.engine.accounts r.suspend (s.drains r.handle) := by
  rw [drains_iff]
  unfold PublishSound Engine.accounts
  cases hp : s.engine.purpose with
  | none => simp
  | some pu => cases pu <;> simp

theorem Engine.accounts.congr {e f : Engine} {b c : Bool} {D E : Prop} (h : e.accounts b D)
    (he : f.duty = e.duty) (hb : b = false → c = false) (hd : D → E) : f.accounts c E := by
  have hstate : f.state = e.state := congrArg (fun d => d.post.state) he
  have hcontext : f.context = e.context := congrArg (fun d => d.post.context) he
  have hpurpose : f.purpose = e.purpose := congrArg (fun d => d.post.purpose) he
  have hfrom : f.heldFrom = e.heldFrom := congrArg Duty.heldFrom he
  have hsome : f.urgentRun.isSome = e.urgentRun.isSome := congrArg Duty.urgent he
  have hurgent : f.urgentRun = none ↔ e.urgentRun = none := by
    rw [← Option.isNone_iff_eq_none, ← Option.isNone_iff_eq_none, ← Option.not_isSome, ← Option.not_isSome, hsome]
  unfold Engine.accounts at h ⊢
  rw [hstate, hcontext, hpurpose, hfrom, Ne, hurgent]
  rcases h with h | ⟨h1, h2, h3⟩ | ⟨h1, h2, h3, h4⟩
  · exact .inl h
  · exact .inr (.inl ⟨h1, hb h2, h3⟩)
  · exact .inr (.inr ⟨h1, hb h2, h3, hd h4⟩)

theorem Engine.accounts.not_idle {e : Engine} {b : Bool} {D : Prop} (h : e.accounts b D) : e.state ≠ .idle := by
  intro hi
  simp [Engine.accounts, hi] at h

/-- A part that is not held in reset: each W has its owner, and the engine accounts for the publish at the unit. -/
structure WorkOwned (s : State) : Prop where
  owned : ∀ h, s.hasWork h → (∃ r, s.pubUnit.record? = some r ∧ r.handle = h) ∨ s.engine.awaits h
  idle : s.engine.state = .idle → s.pubUnit.record? = none ∧ s.engine.context = none
  purpose : s.pubUnit.record? = none → s.engine.purpose = none
  publish : ∀ r, s.pubUnit.record? = some r → PublishSound s r

theorem workingSetsSound_iff {s : State} : WorkingSetsSound s ↔ (s.inReset = none → WorkOwned s) :=
  ⟨fun h hr => ⟨(h hr).1, (h hr).2.1, (h hr).2.2.1, (h hr).2.2.2⟩,
    fun h hr => ⟨(h hr).owned, (h hr).idle, (h hr).purpose, (h hr).publish⟩⟩

/-- The law, with the laws of the drain queue and the lock table that it leans on. -/
structure WorkLaws (s : State) : Prop extends WorkOwned s where
  drains : DrainsAndLocksSound s

/-- A publish has ended: the unit is READY, and each W left is the WAITING context's. -/
structure Ended (s : State) : Prop where
  drains : DrainsAndLocksSound s
  ready : s.pubUnit = .ready
  owned : ∀ h, s.hasWork h → s.engine.awaits h
  idle : s.engine.state = .idle → s.engine.context = none

/-- The engine has taken the end of the publish, and may choose. -/
structure Resting (s : State) : Prop extends Ended s where
  purpose : s.engine.purpose = none

theorem record_of_ready {s : State} (h : s.pubUnit = .ready) : s.pubUnit.record? = none := by
  rw [h]
  rfl

theorem Resting.workLaws {s : State} (hs : Resting s) : WorkLaws s where
  drains := hs.drains
  owned h hk := .inr (hs.owned h hk)
  idle hi := ⟨record_of_ready hs.ready, hs.idle hi⟩
  purpose _ := hs.purpose
  publish r hr := by rw [record_of_ready hs.ready] at hr; cases hr

theorem WorkOwned.awaits {s : State} (hs : WorkOwned s) (hr : s.pubUnit.record? = none) (h : Handle)
    (hk : s.hasWork h) : s.engine.awaits h := by
  refine (hs.owned h hk).resolve_left ?_
  rintro ⟨r, hs, -⟩
  rw [hr] at hs
  cases hs

theorem WorkLaws.resting {s : State} (hs : WorkLaws s) (hu : s.pubUnit = .ready) : Resting s where
  drains := hs.drains
  ready := hu
  owned := hs.toWorkOwned.awaits (record_of_ready hu)
  idle hi := (hs.idle hi).2
  purpose := hs.purpose (record_of_ready hu)

/-! ### Changes that the law does not see -/

theorem Ended.carry {s t : State} (hs : Ended s) (hd : DrainsAndLocksSound t)
    (hw : ∀ h, t.hasWork h → s.hasWork h) (hu : t.pubUnit = s.pubUnit)
    (he : t.engine.post = s.engine.post) : Ended t where
  drains := hd
  ready := hu.trans hs.ready
  owned h hk := awaits_congr (congrArg Post.context he) (hs.owned h (hw h hk))
  idle hi := (congrArg Post.context he).trans (hs.idle ((congrArg Post.state he).symm.trans hi))

theorem Resting.carry {s t : State} (hs : Resting s) (hd : DrainsAndLocksSound t)
    (hw : ∀ h, t.hasWork h → s.hasWork h) (hu : t.pubUnit = s.pubUnit)
    (he : t.engine.post = s.engine.post) : Resting t :=
  { hs.toEnded.carry hd hw hu he with purpose := (congrArg Post.purpose he).trans hs.purpose }

theorem Resting.atPost {s t : State} (hs : Resting s) (h : AtPost s t) : Resting t :=
  hs.carry (kept_drainsAndLocksSound.engineOnly h.only hs.drains) (hasWork_congr h.only.slots) h.only.pubUnit h.post

theorem Resting.onDuty {s t : State} (hs : Resting s) (h : OnDuty s t) : Resting t := hs.atPost (.of_onDuty h)

/-- The unit and the engine's duty stay, no W comes, and the window at the unit goes on draining. -/
theorem WorkOwned.carry {s t : State} (hs : WorkOwned s) (hw : ∀ h, t.hasWork h → s.hasWork h)
    (hdr : ∀ r, s.pubUnit.record? = some r → s.drains r.handle → t.drains r.handle)
    (hu : t.pubUnit = s.pubUnit) (he : t.engine.duty = s.engine.duty) : WorkOwned t := by
  have hpost : t.engine.post = s.engine.post := congrArg Duty.post he
  have hstate : t.engine.state = s.engine.state := congrArg Post.state hpost
  refine ⟨fun h hk => ?_, fun hi => ?_, fun hr => ?_, fun r hr => ?_⟩
  · rw [hu]
    exact (hs.owned h (hw h hk)).imp_right (awaits_congr (congrArg Post.context hpost))
  · rw [hu, show t.engine.context = s.engine.context from congrArg Post.context hpost]
    exact hs.idle (hstate.symm.trans hi)
  · rw [show t.engine.purpose = s.engine.purpose from congrArg Post.purpose hpost]
    exact hs.purpose (hu ▸ hr)
  · rw [hu] at hr
    obtain ⟨hheld, hstop, hacc⟩ := publishSound_iff.1 (hs.publish r hr)
    refine publishSound_iff.2 ⟨by rw [hstate, hu]; exact hheld, by rw [hstate]; exact hstop, ?_⟩
    exact hacc.congr he id (hdr r hr)

theorem WorkLaws.carry {s t : State} (hs : WorkLaws s) (hd : DrainsAndLocksSound t)
    (hw : ∀ h, t.hasWork h → s.hasWork h)
    (hdr : ∀ r, s.pubUnit.record? = some r → s.drains r.handle → t.drains r.handle)
    (hu : t.pubUnit = s.pubUnit) (he : t.engine.duty = s.engine.duty) : WorkLaws t :=
  ⟨hs.toWorkOwned.carry hw hdr hu he, hd⟩

theorem WorkLaws.onDuty {s t : State} (hs : WorkLaws s) (h : OnDuty s t) : WorkLaws t :=
  hs.carry (kept_drainsAndLocksSound.engineOnly h.only hs.drains) (hasWork_congr h.only.slots)
    (fun _ _ => (NoNewWork.of_slots h.only.slots).drains _) h.only.pubUnit h.duty

theorem WorkLaws.noNewWork {s t : State} (hs : WorkLaws s) (hd : DrainsAndLocksSound t) (h : NoNewWork s t)
    (hu : t.pubUnit = s.pubUnit) (he : t.engine.duty = s.engine.duty) : WorkLaws t :=
  hs.carry hd h.work (fun _ _ => h.drains _) hu he

theorem freeWindow_duty (h : Handle) (s : State) : (freeWindow h s).engine.duty = s.engine.duty := by
  cases hw : s.window? h with
  | none => rw [freeWindow_unmatched hw]
  | some w => rw [freeWindow_matched hw, dropView_eq]; rfl

theorem freeWindow_post (h : Handle) (s : State) : (freeWindow h s).engine.post = s.engine.post :=
  congrArg Duty.post (freeWindow_duty h s)

/-! ### The start of a publish -/

/-- Of a start there are two outcomes: the first line copy is requested, or the window flips at once (R63). -/
theorem startUnit_cases (h : Handle) (s : State) :
    (∃ w p n, s.paired? h = some (w, p) ∧
      startUnit h s = ({ s.setPaired h.index w p.take with pubUnit := .reading (newRecord h p) n }, false)) ∨
    ∃ t, startUnit h s = (t, true) ∧ t.pubUnit = .ready ∧ t.engine = s.engine ∧ Rid h s t := by
  cases hp : s.paired? h with
  | none =>
    exact .inr ⟨unitReady s, by simp [startUnit, hp], rfl, rfl,
      .of_none (not_hasWork_of_unmatched hp) (hasWork_congr rfl)⟩
  | some x =>
    obtain ⟨w, p⟩ := x
    have hp' := paired?_setPaired (p' := p.take) hp
    cases hn : nextCopyLine { w with body := .paired p.take } p.take with
    | some n => exact .inl ⟨w, p, n, rfl, by simp [startUnit, advance, hp, newRecord, hp', hn]⟩
    | none =>
      refine .inr ⟨flip (newRecord h p) (s.setPaired h.index w p.take),
        by simp [startUnit, advance, hp, newRecord, hp', hn], flip_pubUnit _ _, flip_engine _ _, fun x hx => ?_⟩
      obtain ⟨hne, hx⟩ := rid_flip _ _ x hx
      have hne : x ≠ h := hne
      exact ⟨hne, by rwa [hasWork_setPaired hp, if_neg hne] at hx⟩

/-- The unit may take a start of this window: each other W is the WAITING context's. -/
structure Starting (h : Handle) (s : State) : Prop where
  drains : DrainsAndLocksSound s
  ready : s.pubUnit = .ready
  owned : ∀ x, s.hasWork x → x = h ∨ s.engine.awaits x

theorem drains_take {s : State} {h : Handle} {w : Window} {p : Paired} (hp : s.paired? h = some (w, p)) {x : Handle}
    (hd : s.drains x) : (s.setPaired h.index w p.take).drains x := by
  have ha : Agree Window.outline s (s.setPaired h.index w p.take) := agree_take hp
  exact (ha.drainKind.drains_iff x).2 hd

/-- After a start, the window's W is the publish's. -/
theorem owned_take {s : State} {h : Handle} {w : Window} {p p' : Paired} (hp : s.paired? h = some (w, p))
    (ho : ∀ x, s.hasWork x → x = h ∨ s.engine.awaits x) (x : Handle)
    (hx : (s.setPaired h.index w p').hasWork x) : x = h ∨ s.engine.awaits x := by
  by_cases he : x = h
  · exact .inl he
  · rw [hasWork_setPaired hp, if_neg he] at hx
    exact ho x hx

/-! ### What a report ends -/

theorem Resting.resolve {s : State} (rep : UnitReport) (hs : Resting s) :
    Resting (modEngine (fun e => e.resolve rep) s) where
  drains := kept_drainsAndLocksSound.engineOnly (.resolve rep s) hs.drains
  ready := hs.ready
  owned h hk := awaits_resolve rep (hs.owned h hk)
  idle hi := resolve_context_none rep (hs.idle (by
    rw [← hi]
    show _ = (s.engine.resolve rep).state
    rw [resolve_only]))
  purpose := by
    show (s.engine.resolve rep).purpose = none
    rw [resolve_only]
    exact hs.purpose

/-- The context goes, where no window has a W. -/
theorem Resting.dropContext {s : State} (hs : Resting s) (hn : ∀ h, ¬s.hasWork h) : Resting (dropContext s) where
  drains := kept_drainsAndLocksSound.engineOnly (.dropContext s) hs.drains
  ready := hs.ready
  owned h hk := absurd (hasWork_congr (s := s) rfl h hk) (hn h)
  idle _ := rfl
  purpose := hs.purpose

theorem Resting.countContext {s : State} (c : SuspendedCtx) (b : Bool) (hs : Resting s)
    (hn : ∀ h, ¬s.hasWork h) : Resting (countContext c b s) := by
  have counted : OnDuty s (modWork (if b then WorkReport.publish else WorkReport.skip c.handle.index) s) :=
    .modWork _ s
  exact ((hs.onDuty counted).dropContext fun h hk => hn h (hasWork_congr counted.only.slots h hk)).onDuty
    (.entryEnds _)

/-- A USEQ's new run: of the contexts it counts an adopted one, which is not WAITING (R107). -/
theorem Resting.restartUrgent {s : State} (b : Bool) (hs : Resting s)
    (hb : b = true → ∀ h, ¬s.engine.awaits h) : Resting (restartUrgent b s) := by
  have ended : AtPost s (modEngine (fun e => { e with restartUrgent := false }) (writeUrgent .aborted s)) :=
    (AtPost.writeUrgent _ s).trans (.modEngine rfl rfl)
  have ht := hs.atPost ended
  unfold Machine.restartUrgent
  dsimp only
  split
  · exact ht.atPost (.beginUrgent _)
  · split
    · rename_i h
      refine (ht.countContext _ _ fun x hx => ?_).atPost (.beginUrgent _)
      exact hb h x (awaits_congr (congrArg Post.context ended.post).symm (ht.owned x hx))
    · exact ht.atPost (.beginUrgent _)

theorem Resting.conclude {s : State} (pu : Purpose) (h : Handle) {rep : UnitReport} (hs : Resting s)
    (hrep : rep ≠ .suspended) : Resting (conclude pu h rep s) := by
  unfold Machine.conclude
  split
  · rw [if_neg hrep]
    split
    · exact hs.onDuty (.restartPass s)
    · exact hs.onDuty (.entryEnds s)
  · dsimp only
    split
    · exact (hs.resolve rep).restartUrgent _ fun ha => resolve_adopted rep ha
    · exact (hs.resolve rep).atPost (.urgentEntryEnds _)
  · exact hs.resolve rep

/-- A freed window has no W. -/
theorem Resting.drainFree {s : State} (o : DrainOutcome) (h : Handle) (hs : Resting s)
    (hq : h ∈ s.engine.drainQueue) : Resting (drainFree o h s) :=
  hs.carry (kept_drainsAndLocksSound.drainFree o h hs.drains hq hs.ready)
    (fun x hx => (rid_freeWindow h s x hx).2) (freeWindow_pubUnit h s) (freeWindow_post h s)

theorem Resting.drainFailure {s : State} (h : Handle) (hs : Resting s) : Resting (drainFailure h s) := by
  unfold Machine.drainFailure
  split
  · exact hs
  · rename_i q qs hq
    split
    · rename_i hqh
      subst hqh
      split
      · exact hs
      · rename_i w p hp
        split
        · exact hs.drainFree _ _ (by rw [hq]; simp)
        · refine hs.carry (hs.drains.requeue hq hp (by omega)) (fun x hx => ?_) rfl rfl
          have := (hasWork_setPaired hp x).1 hx
          split at this
          · rename_i e
            exact e ▸ ⟨w, p, hp, Option.isSome_iff_ne_none.1 this⟩
          · exact this
    · exact hs

theorem Resting.account {s : State} (pu : Purpose) (h : Handle) (rep : UnitReport) (hs : Resting s) :
    Resting (account pu h rep s) := by
  unfold Machine.account
  split
  · exact hs.onDuty (.modWork _ s)
  · exact hs.onDuty (.modUrgent _ s)
  · split
    · exact hs.drainFailure h
    · exact hs

/-! ### The choice at a window boundary -/

/-- The engine when it asks for a start (R97, R111, R116). -/
def Engine.starts (e : Engine) (pu : Purpose) (st : EngineState) : Engine :=
  { e with state := st, heldFrom := none, purpose := some pu }

theorem startPublish_copying {s t : State} {pu : Purpose} {st : EngineState} {h : Handle}
    (e : startUnit h (modEngine (fun e => e.starts pu st) s) = (t, false)) :
    startPublish pu st h s = (t, false) := by
  unfold Engine.starts at e
  unfold startPublish
  rw [e]

theorem startPublish_flipped {s t : State} {pu : Purpose} {st : EngineState} {h : Handle}
    (e : startUnit h (modEngine (fun e => e.starts pu st) s) = (t, true)) :
    startPublish pu st h s =
      (conclude pu h .flipped (account pu h .flipped (modEngine (fun e => { e with purpose := none }) t)), true) := by
  unfold Engine.starts at e
  unfold startPublish
  rw [e]

theorem choice_startPublish {s : State} {pu : Purpose} {st : EngineState} {h : Handle} (hs : Starting h s)
    (hst : st = .run ∨ st = .urgent ∨ st = .drain)
    (hacc : (s.engine.starts pu st).accounts false (s.drains h)) :
    Kept.Choice WorkLaws (startPublish pu st h s) := by
  have hidle : st ≠ .idle := by rcases hst with rfl | rfl | rfl <;> decide
  have hheld : st ≠ .held := by rcases hst with rfl | rfl | rfl <;> decide
  have hstop : st ≠ .stopping := by rcases hst with rfl | rfl | rfl <;> decide
  have hd := kept_drainsAndLocksSound.startPublish pu st h hs.drains hs.ready
  refine ⟨?_, Kept.startPublish_ready⟩
  rcases startUnit_cases h (modEngine (fun e => e.starts pu st) s) with ⟨w, p, n, hp, e⟩ | ⟨t, e, hu, he, hrid⟩
  · rw [startPublish_copying e] at hd ⊢
    refine WorkLaws.mk ⟨fun x hx => ?_, fun hi => absurd hi hidle, fun hr => (by cases hr), fun r hr => ?_⟩ hd
    · exact (owned_take hp hs.owned x hx).imp (fun hx => ⟨_, rfl, hx.symm⟩) id
    · cases hr
      exact publishSound_iff.2 ⟨⟨fun hh => absurd hh hheld, fun hh => (by cases hh)⟩, fun hh => absurd hh hstop,
        hacc.congr rfl id fun hdr => drains_take hp hdr⟩
  · have hdu := kept_drainsAndLocksSound.startUnit h (s := modEngine (fun e => e.starts pu st) s)
      (kept_drainsAndLocksSound.modEngine rfl hs.drains) hs.ready
    rw [e] at hdu
    rw [startPublish_flipped e]
    have rested : Resting (modEngine (fun e => { e with purpose := none }) t) := by
      refine Resting.mk ⟨kept_drainsAndLocksSound.modEngine rfl hdu, hu, fun x hx => ?_, fun hi => ?_⟩ rfl
      · obtain ⟨hne, hx⟩ := hrid x (hasWork_congr (s := t) rfl x hx)
        have hctx : t.engine.context = s.engine.context := by rw [he]; rfl
        exact awaits_congr (e := s.engine) hctx ((hs.owned x hx).resolve_left hne)
      · have hstate : t.engine.state = st := by rw [he]; rfl
        exact absurd (hstate.symm.trans hi) hidle
    exact ((rested.account pu h .flipped).conclude pu h (by simp)).workLaws

end Sys2Proof.Machine
end

section
/-! O59: the law of working sets through the choice, the reports, the triggers and the line boundary (R65, R75,
R100, R103, R110). -/

namespace Sys2Proof.Machine

/-! ### The choice at a window boundary -/

theorem Resting.choice {t : State} {b : Bool} (ht : Resting t) : Kept.Choice WorkLaws (t, b) :=
  ⟨ht.workLaws, fun _ => ht.ready⟩

theorem Resting.starting {s : State} (h : Handle) (hs : Resting s) : Starting h s :=
  ⟨hs.drains, hs.ready, fun x hx => .inr (hs.owned x hx)⟩

/-- A start by an urgent entry or a drain, which adopts the context of its window (R113). -/
theorem Resting.adopting {s : State} (h : Handle) (hs : Resting s) :
    Starting h (modEngine (fun e => e.adopt h) s) :=
  ⟨kept_drainsAndLocksSound.engineOnly (.adopt h s) hs.drains, hs.ready,
    fun x hx => awaits_adopt h (hs.owned x (hasWork_congr (s := s) rfl x hx))⟩

theorem choice_processRegular {s : State} (h : Handle) (hs : Resting s) (hc : s.engine.context = none)
    (hu : s.engine.urgentRun = none) : Kept.Choice WorkLaws (processRegular h s) := by
  unfold processRegular
  split
  · exact (hs.onDuty ((OnDuty.modWork _ s).trans (.entryEnds _))).choice
  · split
    · exact (hs.onDuty ((OnDuty.modWork _ s).trans (.entryEnds _))).choice
    · exact choice_startPublish (hs.starting h) (.inl rfl) (.inl ⟨rfl, hc, hu, .inl rfl⟩)

theorem choice_processUrgent {s : State} (h : Handle) (hs : Resting s) (hu : s.engine.urgentRun ≠ none) :
    Kept.Choice WorkLaws (processUrgent h s) := by
  have vacated : ∀ f, AtPost s (urgentEntryEnds (modUrgent f s)) := fun f =>
    (AtPost.of_onDuty (.modUrgent f s)).trans (.urgentEntryEnds _)
  unfold processUrgent
  split
  · exact (hs.atPost (vacated _)).choice
  · split
    · exact (hs.atPost (vacated _)).choice
    · refine choice_startPublish (hs.adopting h) (.inr (.inl rfl)) (.inr (.inl ⟨rfl, rfl, ?_, .inl rfl⟩))
      show (s.engine.adopt h).urgentRun ≠ none
      rw [adopt_only]
      exact hu

theorem choice_drainStep {s : State} {h : Handle} {q : List Handle} (hq : s.engine.drainQueue = h :: q)
    (hs : Resting s) : Kept.Choice WorkLaws (drainStep h s) := by
  have hmem : h ∈ s.engine.drainQueue := by rw [hq]; exact List.mem_cons_self
  unfold drainStep
  split
  · rename_i hp
    exact (hs.carry (hs.drains.pop hq hp) (hasWork_congr rfl) rfl rfl).choice
  · split
    · exact (hs.drainFree .clean h hmem).choice
    · have hdrains : s.drains h := ((drainsAndLocksSound_iff.1 hs.drains).1.2.1 h).1 hmem
      exact choice_startPublish (hs.adopting h) (.inr (.inr rfl))
        (.inr (.inr ⟨rfl, rfl, .inl rfl, (NoNewWork.of_slots rfl).drains h hdrains⟩))

/-- With no window of a W, or with a W the WAITING context's alone. -/
theorem Resting.no_work {s : State} (hs : Resting s) {c : SuspendedCtx} (hc : s.engine.context = some c)
    (hn : c.outcome = .waiting → ¬s.hasWork c.handle) (h : Handle) : ¬s.hasWork h := fun hk => by
  obtain ⟨d, hd, rfl, ho⟩ := hs.owned h hk
  rw [hc] at hd
  cases hd
  exact hn ho hk

theorem startHeld_matched {s : State} {h : Handle} {w : Window} {p : Paired} (hp : s.paired? h = some (w, p)) :
    startHeld h s = { s.setPaired h.index w p.take with pubUnit := .paused (newRecord h p) } := by
  simp [startHeld, hp]

/-- A held start of the context's window: HELD from RUN, with the context's W at the unit (R114). -/
theorem workLaws_resumeHeld {s : State} {c : SuspendedCtx} {w : Window} {p : Paired} (hs : Resting s)
    (hc : s.engine.context = some c) (hu : s.engine.urgentRun = none)
    (hp : s.paired? c.handle = some (w, p)) : WorkLaws (resumeHeld c s) := by
  have hd : DrainsAndLocksSound (resumeHeld c s) :=
    kept_drainsAndLocksSound.startHeld _ (kept_drainsAndLocksSound.modEngine rfl hs.drains) hs.ready
  have hsole : ∀ x, s.hasWork x → x = c.handle := fun x hx => by
    obtain ⟨d, h1, h2, -⟩ := hs.owned x hx
    rw [hc] at h1
    cases h1
    exact h2.symm
  unfold resumeHeld at hd ⊢
  rw [startHeld_matched (s := modEngine _ s) hp] at hd ⊢
  refine WorkLaws.mk ⟨fun x hx => .inl ⟨_, rfl, ?_⟩, fun hi => (by cases hi), fun hr => (by cases hr),
    fun r hr => ?_⟩ hd
  · by_cases hne : x = c.handle
    · exact hne.symm
    · have := (hasWork_setPaired (s := s) (p' := p.take) hp x).1 hx
      rw [if_neg hne] at this
      exact (hsole x this).symm
  · cases hr
    exact publishSound_iff.2 ⟨⟨fun _ => rfl, fun _ => rfl⟩, fun hh => (by cases hh),
      .inl ⟨rfl, rfl, hu, .inr (.inr ⟨rfl, rfl⟩)⟩⟩

theorem choice_resumeContext {s : State} {c : SuspendedCtx} (hs : Resting s) (hc : s.engine.context = some c)
    (hu : s.engine.urgentRun = none) : Kept.Choice WorkLaws (resumeContext c s) := by
  have counted : ∀ {b}, (c.outcome = .waiting → ¬s.hasWork c.handle) →
      Kept.Choice WorkLaws (countContext c b s, true) := fun hn =>
    (hs.countContext c _ (hs.no_work hc hn)).choice
  unfold resumeContext
  split
  · rename_i ho
    exact counted fun hw => by rw [ho] at hw; cases hw
  · rename_i ho
    exact counted fun hw => by rw [ho] at hw; cases hw
  · exact hs.choice
  · split
    · rename_i hp
      exact counted fun _ => not_hasWork_of_unmatched hp
    · rename_i x hp
      obtain ⟨w, p⟩ := x
      split
      · exact ⟨workLaws_resumeHeld hs hc hu hp, fun h => by cases h⟩
      · refine choice_startPublish ⟨kept_drainsAndLocksSound.engineOnly (.dropContext s) hs.drains, hs.ready,
          fun x hx => .inl ?_⟩ (.inl rfl) (.inl ⟨rfl, rfl, hu, .inl rfl⟩)
        obtain ⟨d, h1, h2, -⟩ := hs.owned x (hasWork_congr (s := s) rfl x hx)
        rw [hc] at h1
        cases h1
        exact h2.symm

theorem Resting.settleIdle {s : State} (hs : Resting s) (hc : s.engine.context = none) :
    Resting (settleIdle s) := by
  unfold Machine.settleIdle
  split
  · exact hs
  · refine Resting.mk ⟨kept_drainsAndLocksSound.raise _ (kept_drainsAndLocksSound.modEngine rfl hs.drains), hs.ready,
      fun x hx => ?_, fun _ => hc⟩ hs.purpose
    exact awaits_congr (e := s.engine) rfl (hs.owned x (hasWork_congr (s := s) rfl x hx))

/-- One choice (R100), in the order of its branches. -/
theorem choice_choiceStep {s : State} (hs : Resting s) : Kept.Choice WorkLaws (choiceStep s) := by
  unfold choiceStep
  split
  · rename_i u hur
    split
    · exact (hs.atPost (.writeUrgent _ s)).choice
    · exact choice_processUrgent _ hs (by rw [hur]; simp)
  · rename_i hur
    split
    · exact (hs.atPost (.beginUrgent s)).choice
    · split
      · exact choice_drainStep ‹_› hs
      · split
        · exact choice_resumeContext hs ‹_› hur
        · rename_i hc
          split
          · split
            · exact (hs.onDuty (.beginPass s)).choice
            · split
              · exact (hs.onDuty (.finishPass s)).choice
              · exact choice_processRegular _ hs hc hur
          · split
            · exact (hs.onDuty ((OnDuty.modEngine rfl rfl).trans (.beginRun _))).choice
            · exact (hs.settleIdle hc).choice

theorem workLaws_choiceLoop {s : State} (n : Nat) (hs : Resting s) : WorkLaws (choiceLoop n s) := by
  induction n generalizing s with
  | zero => exact hs.workLaws
  | succ n ih =>
    have h := choice_choiceStep hs
    unfold choiceLoop
    split
    · rename_i t ht
      rw [ht] at h
      exact ih (h.1.resting (h.2 rfl))
    · rename_i t ht
      rw [ht] at h
      exact h.1

theorem WorkLaws.boundaryChoice {s : State} (hs : WorkLaws s) : WorkLaws (boundaryChoice s) := by
  unfold Machine.boundaryChoice
  split
  · exact workLaws_choiceLoop _ (hs.resting ‹_›)
  · exact hs

/-! ### The end of STOPPING and the reports -/

/-- The context goes, and the W of a WAITING one with it (R103). -/
theorem abandonContext_context (s : State) : (abandonContext s).engine.context = none := by
  unfold abandonContext
  split
  · assumption
  · rfl

theorem abandonContext_work {s : State} {h : Handle} (hk : (abandonContext s).hasWork h) :
    s.hasWork h ∧ ¬s.engine.awaits h := by
  unfold abandonContext at hk
  split at hk
  · rename_i hc
    exact ⟨hk, not_awaits_of_none hc h⟩
  · rename_i c hc
    split at hk
    · obtain ⟨hne, hk⟩ := rid_mergeWork c.handle s h (hasWork_congr (s := mergeWork c.handle s) rfl h hk)
      refine ⟨hk, ?_⟩
      rintro ⟨d, hd, rfl, -⟩
      rw [hc] at hd
      cases hd
      exact hne rfl
    · rename_i ho
      refine ⟨hasWork_congr (s := s) rfl h hk, ?_⟩
      rintro ⟨d, hd, rfl, hw⟩
      rw [hc] at hd
      cases hd
      exact ho hw

/-- At the end of STOPPING no W is left, and the engine is IDLE (R75, R103). -/
theorem workLaws_stopEnd {s : State} (hd : DrainsAndLocksSound s) (hr : s.pubUnit.record? = none)
    (hw : ∀ h, s.hasWork h → s.engine.awaits h) : WorkLaws (stopEnd s) := by
  have ended : AtPost (abandonContext s) (writeUrgent .aborted (stopPass (abandonContext s))) :=
    (AtPost.of_onDuty (.stopPass _)).trans (.writeUrgent _ _)
  have hunit : (writeUrgent .aborted (stopPass (abandonContext s))).pubUnit.record? = none := by
    rw [ended.only.pubUnit, EngineKept.abandonContext_pubUnit, hr]
  have hcontext : (writeUrgent .aborted (stopPass (abandonContext s))).engine.context = none :=
    (congrArg Post.context ended.post).trans (abandonContext_context s)
  have hnone : ∀ h, ¬(writeUrgent .aborted (stopPass (abandonContext s))).hasWork h := fun h hk => by
    obtain ⟨hk, hn⟩ := abandonContext_work (hasWork_congr ended.only.slots h hk)
    exact hn (hw h hk)
  refine WorkLaws.boundaryChoice (WorkLaws.mk ⟨fun h hk => ?_, fun _ => ⟨hunit, hcontext⟩, fun _ => rfl,
    fun r hr' => ?_⟩ ?_)
  · exact absurd (hasWork_congr rfl h hk) (hnone h)
  · rw [show (stopIdle _).pubUnit.record? = none from hunit] at hr'
    cases hr'
  · exact kept_drainsAndLocksSound.stopIdle (kept_drainsAndLocksSound.engineOnly ended.only
      (kept_drainsAndLocksSound.abandonContext hd))

theorem Ended.taken {s : State} (hs : Ended s) :
    Resting (modEngine (fun e => { e with purpose := none, heldFrom := none }) s) :=
  Resting.mk ⟨kept_drainsAndLocksSound.modEngine rfl hs.drains, hs.ready, fun x hx =>
    awaits_congr (e := s.engine) rfl (hs.owned x (hasWork_congr (s := s) rfl x hx)), hs.idle⟩ rfl

/-- The engine takes the end of a publish that leaves no W of its own (R98, R103, R111). -/
theorem Ended.takeReport {s : State} (h : Handle) {rep : UnitReport} (hs : Ended s) (hrep : rep ≠ .suspended) :
    WorkLaws (takeReport h rep s) := by
  unfold Machine.takeReport
  split
  · rename_i hp
    exact (Resting.mk hs hp).workLaws
  · rename_i pu _
    have counted := hs.taken.account pu h rep
    dsimp only
    split
    · exact workLaws_stopEnd counted.drains (record_of_ready counted.ready) counted.owned
    · exact (counted.conclude pu h hrep).workLaws.boundaryChoice

/-- A regular publish has been suspended, and its W is the only one; under STOPPING it has none. -/
structure Suspended (h : Handle) (s : State) : Prop where
  drains : DrainsAndLocksSound s
  ready : s.pubUnit = .ready
  sole : ∀ x, s.hasWork x → x = h ∧ s.engine.state ≠ .stopping
  active : s.engine.state ≠ .idle
  context : s.engine.context = none
  purpose : s.engine.purpose = some .regular

/-- The suspended context takes the W of the publish (R110). -/
theorem Suspended.takeReport {s : State} {h : Handle} (hs : Suspended h s) :
    WorkLaws (takeReport h .suspended s) := by
  let t := Machine.account .regular h .suspended
    (modEngine (fun e => { e with purpose := none, heldFrom := none }) s)
  have counted : OnDuty (modEngine (fun e => { e with purpose := none, heldFrom := none }) s) t := .modWork _ _
  have hd : DrainsAndLocksSound t := kept_drainsAndLocksSound.engineOnly counted.only
    (kept_drainsAndLocksSound.modEngine rfl hs.drains)
  have hsole : ∀ x, t.hasWork x → x = h ∧ s.engine.state ≠ .stopping := fun x hx =>
    hs.sole x (hasWork_congr (t := t) rfl x hx)
  have hstate : t.engine.state = s.engine.state := rfl
  have e : Machine.takeReport h .suspended s =
      if t.engine.state = .stopping then Machine.stopEnd t
      else Machine.boundaryChoice (Machine.conclude .regular h .suspended t) := by
    simp only [Machine.takeReport, hs.purpose, t]
  rw [e]
  split
  · rename_i hstop
    refine workLaws_stopEnd hd (record_of_ready hs.ready) fun x hx => ?_
    exact absurd hstop (hsole x hx).2
  · refine WorkLaws.boundaryChoice (Resting.workLaws (Resting.mk ⟨kept_drainsAndLocksSound.conclude _ _ _ hd,
      hs.ready, fun x hx => ?_, fun hi => absurd hi hs.active⟩ rfl))
    exact ⟨_, rfl, (hsole x (hasWork_congr (t := Machine.conclude .regular h .suspended t) (s := t) rfl x hx)).1.symm,
      rfl⟩

end Sys2Proof.Machine
end

section
/-! O59: the law of working sets through the unit's requests, its line boundary and the line copies (R64 to R66,
R74, R75, R131, R156). -/

namespace Sys2Proof.Machine

/-! ### The publish at the unit -/

section
variable {s : State} {r : PublishRecord} (hs : WorkLaws s) (h0 : s.pubUnit.record? = some r)
include hs h0

theorem WorkLaws.not_idle : s.engine.state ≠ .idle := fun hi => by
  rw [(hs.idle hi).1] at h0
  cases h0

theorem WorkLaws.held_iff : s.engine.state = .held ↔ s.pubUnit = .paused r :=
  (publishSound_iff.1 (hs.publish r h0)).1

theorem WorkLaws.abandoned (h : s.engine.state = .stopping) : r.abandons ≠ [] :=
  (publishSound_iff.1 (hs.publish r h0)).2.1 h

theorem WorkLaws.accounts : s.engine.accounts r.suspend (s.drains r.handle) :=
  (publishSound_iff.1 (hs.publish r h0)).2.2

/-- A W that is not the publish's is the WAITING context's. -/
theorem WorkLaws.awaits_of_ne {x : Handle} (hx : s.hasWork x) (hne : x ≠ r.handle) : s.engine.awaits x := by
  refine (hs.owned x hx).resolve_left ?_
  rintro ⟨q, hq, rfl⟩
  rw [h0] at hq
  cases hq
  exact hne rfl

/-- The publish ends, and its window's W with it. -/
theorem Ended.of_rid {t : State} (hd : DrainsAndLocksSound t) (hu : t.pubUnit = .ready)
    (hw : Rid r.handle s t) (he : t.engine.post = s.engine.post) : Ended t where
  drains := hd
  ready := hu
  owned x hx := awaits_congr (congrArg Post.context he) (hs.awaits_of_ne h0 (hw x hx).2 (hw x hx).1)
  idle hi := absurd ((congrArg Post.state he).symm.trans hi) (hs.not_idle h0)

/-- A regular publish ends with its W left; under STOPPING its window has none. -/
theorem Suspended.of_regular {t : State} (hp : s.engine.purpose = some .regular) (hd : DrainsAndLocksSound t)
    (hu : t.pubUnit = .ready)
    (hw : ∀ x, t.hasWork x → s.hasWork x ∧ (s.engine.state = .stopping → x ≠ r.handle))
    (he : t.engine.post = s.engine.post) : Suspended r.handle t := by
  have hcontext : s.engine.context = none := by
    rcases hs.accounts h0 with ⟨-, hc, -⟩ | ⟨h, -⟩ | ⟨h, -⟩
    · exact hc
    · rw [hp] at h; cases h
    · rw [hp] at h; cases h
  have hstate : t.engine.state = s.engine.state := congrArg Post.state he
  refine ⟨hd, hu, fun x hx => ?_, hstate ▸ hs.not_idle h0, (congrArg Post.context he).trans hcontext,
    (congrArg Post.purpose he).trans hp⟩
  have hxr : x = r.handle := by
    by_contra hne
    exact not_awaits_of_none hcontext x (hs.awaits_of_ne h0 (hw x hx).1 hne)
  exact ⟨hxr, fun hstop => (hw x hx).2 (hstate ▸ hstop) hxr⟩

/-- A publish that a suspension is asked of is regular (R110). -/
theorem WorkLaws.regular_of_suspend (hsus : r.suspend = true) : s.engine.purpose = some .regular := by
  rcases hs.accounts h0 with ⟨hp, -⟩ | ⟨-, h, -⟩ | ⟨-, h, -⟩
  · exact hp
  · rw [hsus] at h; cases h
  · rw [hsus] at h; cases h

/-- The publish goes on with another record of its window, and the engine accounts for it. -/
theorem WorkLaws.goesOn {t : State} {q : PublishRecord} (hd : DrainsAndLocksSound t)
    (hw : ∀ x, t.hasWork x → s.hasWork x) (hq : t.pubUnit.record? = some q) (hh : q.handle = r.handle)
    (hc : t.engine.context = s.engine.context) (hsound : PublishSound t q) : WorkLaws t := by
  refine WorkLaws.mk ⟨fun x hx => ?_, fun hi => ?_, fun hr => ?_, fun q' hq' => ?_⟩ hd
  · by_cases hne : x = r.handle
    · exact .inl ⟨q, hq, hh.trans hne.symm⟩
    · exact .inr (awaits_congr hc (hs.awaits_of_ne h0 (hw x hx) hne))
  · exact absurd hi (publishSound_iff.1 hsound).2.2.not_idle
  · rw [hq] at hr
    cases hr
  · rw [hq] at hq'
    cases hq'
    exact hsound

/-- The unit alone changes, from one state to another of the same publish. -/
theorem WorkLaws.withRecord {u : PubUnit} {q : PublishRecord} (hq : u.record? = some q)
    (hh : q.handle = r.handle) (hheld : s.engine.state = .held ↔ u = .paused q)
    (hab : r.abandons ≠ [] → q.abandons ≠ [])
    (hsus : q.suspend = true → r.suspend = true ∨ s.engine.state = .run) :
    WorkLaws { s with pubUnit := u } := by
  refine hs.goesOn h0 (hs.drains.of_slots rfl (.of_locks rfl) rfl) (hasWork_congr rfl) hq hh rfl
    (publishSound_iff.2 ⟨hheld, fun hstop => hab (hs.abandoned h0 hstop), ?_⟩)
  rcases hs.accounts h0 with h | ⟨hp, hr, hu, hst⟩ | ⟨hp, hr, hst, hd⟩
  · exact .inl h
  · refine .inr (.inl ⟨hp, Bool.eq_false_iff.2 fun hqs => ?_, hu, hst⟩)
    rcases hsus hqs with h | h
    · rw [hr] at h; cases h
    · rw [h] at hst; simp at hst
  · refine .inr (.inr ⟨hp, Bool.eq_false_iff.2 fun hqs => ?_, hst, ?_⟩)
    · rcases hsus hqs with h | h
      · rw [hr] at h; cases h
      · rw [h] at hst; simp at hst
    · rw [hh]
      exact (NoNewWork.of_slots rfl).drains _ hd

end

/-- A copy's record stays the unit's after an abandon is asked of it (R66). -/
theorem WorkLaws.requestAbandon {s : State} (c : AbandonCause) (hs : WorkLaws s) :
    WorkLaws (requestAbandon c s) := by
  unfold Machine.requestAbandon
  split
  · rename_i r n hu
    have h0 : s.pubUnit.record? = some r := by rw [hu]; rfl
    refine hs.withRecord h0 rfl rfl ?_ (by simp) .inl
    rw [hs.held_iff h0, hu]
    exact iff_of_false (by simp) (by simp)
  · rename_i r n bs hu
    have h0 : s.pubUnit.record? = some r := by rw [hu]; rfl
    refine hs.withRecord h0 rfl rfl ?_ (by simp) .inl
    rw [hs.held_iff h0, hu]
    exact iff_of_false (by simp) (by simp)
  all_goals exact hs

/-- In RUN the publish at the unit is regular, and may be suspended (R110). -/
theorem WorkLaws.requestSuspend {s : State} (hs : WorkLaws s) (hrun : s.engine.state = .run) :
    WorkLaws (requestSuspend s) := by
  have hheld : s.engine.state ≠ .held := by rw [hrun]; decide
  unfold Machine.requestSuspend
  split
  · rename_i r n hu
    exact hs.withRecord (r := r) (by rw [hu]; rfl) rfl rfl (iff_of_false hheld (by simp)) id fun _ => .inr hrun
  · rename_i r n bs hu
    exact hs.withRecord (r := r) (by rw [hu]; rfl) rfl rfl (iff_of_false hheld (by simp)) id fun _ => .inr hrun
  all_goals exact hs

/-! ### The line boundary -/

/-- What a boundary leaves for the engine to take: a publish that goes on, that is PAUSED, suspended, or ended. -/
inductive Reported (h : Handle) : State × Option UnitReport → Prop
  | copying {t : State} (ht : WorkLaws t) : Reported h (t, none)
  | paused {t : State} (ht : WorkLaws (enterHeld t)) : Reported h (t, some .paused)
  | suspended {t : State} (ht : Suspended h t) : Reported h (t, some .suspended)
  | ended {t : State} {rep : UnitReport} (ht : Ended t) (hs : rep ≠ .suspended) (hp : rep ≠ .paused) :
      Reported h (t, some rep)

theorem Reported.taken {h : Handle} {x : State × Option UnitReport} (hx : Reported h x) :
    WorkLaws (reportBoundary h x) := by
  cases hx with
  | copying ht => exact ht
  | paused ht => exact ht
  | suspended ht => exact ht.takeReport
  | @ended t rep ht hs hp =>
    have e : reportBoundary h (t, some rep) = Machine.takeReport h rep t := by
      cases rep with
      | paused => exact absurd rfl hp
      | _ => rfl
    rw [e]
    exact ht.takeReport h hs

theorem breakWindowLock_slots (h : Handle) (s : State) : (breakWindowLock h s).slots = s.slots := by
  rw [breakWindowLock_only]

theorem breakWindowLock_engine (h : Handle) (s : State) : (breakWindowLock h s).engine = s.engine := by
  rw [breakWindowLock_only]

theorem retireAtBoundary_pubUnit (h : Handle) (s : State) : (retireAtBoundary h s).pubUnit = .ready := by
  simp [retireAtBoundary]

theorem rid_retireAtBoundary (h : Handle) (s : State) : Rid h s (retireAtBoundary h s) :=
  ((rid_freeWindow h _).after (hasWork_congr (breakWindowLock_slots h (unitReady s)))).then (hasWork_congr rfl)

theorem retireAtBoundary_post (h : Handle) (s : State) : (retireAtBoundary h s).engine.post = s.engine.post := by
  show (freeWindow h (breakWindowLock h (unitReady s))).engine.post = _
  rw [freeWindow_post, breakWindowLock_engine]
  rfl

theorem Ended.retireAtBoundary {s : State} (h : Handle) (hs : Ended s) : Ended (retireAtBoundary h s) := by
  have he := retireAtBoundary_post h s
  exact ⟨kept_drainsAndLocksSound.retireAtBoundary h hs.drains, retireAtBoundary_pubUnit h s,
    fun x hx => awaits_congr (congrArg Post.context he) (hs.owned x (rid_retireAtBoundary h s x hx).2),
    fun hi => (congrArg Post.context he).trans (hs.idle ((congrArg Post.state he).symm.trans hi))⟩

section
variable {s : State} {r : PublishRecord} (hs : WorkLaws s) (h0 : s.pubUnit.record? = some r)
include hs h0

theorem Ended.of_retire : Ended (Machine.retireAtBoundary r.handle s) :=
  .of_rid hs h0 (kept_drainsAndLocksSound.retireAtBoundary _ hs.drains) (retireAtBoundary_pubUnit _ _)
    (rid_retireAtBoundary _ _) (retireAtBoundary_post _ _)

theorem Ended.of_abandon : Ended (abandonPublish r.handle s) :=
  .of_rid hs h0 (kept_drainsAndLocksSound.abandonPublish _ hs.drains) rfl
    ((rid_mergeWork _ s).then (hasWork_congr rfl)) (congrArg Engine.post (mergeWork_engine _ s))

end

/-- A DRAINING window is not locked (R120). -/
theorem not_drains_of_locked {s : State} {h : Handle} (hs : DrainsAndLocksSound s) (hl : s.isLocked h = true) :
    ¬s.drains h := fun hd => by
  have free : s.isLocked h = false := isLocked_eq_false.2 fun p => Bool.eq_false_iff.2 fun hh => by
    obtain ⟨l, hp, rfl⟩ := holds_iff.1 hh
    exact State.lockable_not_drains (hs.2.1 p l hp) hd
  rw [hl] at free
  cases free

/-- A copy of a locked window ends in PAUSED, and the engine enters HELD from its state (R130). -/
theorem WorkLaws.enterHeld {s : State} {r q : PublishRecord} (hs : WorkLaws s)
    (h0 : s.pubUnit.record? = some r) (hh : q.handle = r.handle) (hsus : q.suspend = r.suspend)
    (hlock : s.isLocked r.handle = true) (hheld : s.engine.state ≠ .held) (hstop : s.engine.state ≠ .stopping) :
    WorkLaws (enterHeld { s with pubUnit := .paused q }) := by
  refine hs.goesOn h0 (kept_drainsAndLocksSound.engineOnly (.enterHeld _)
    (hs.drains.of_slots (t := { s with pubUnit := .paused q }) rfl (.of_locks rfl) rfl)) (hasWork_congr rfl) rfl hh rfl
    (publishSound_iff.2 ⟨⟨fun _ => rfl, fun _ => rfl⟩, fun h => (by cases h), ?_⟩)
  rcases hs.accounts h0 with ⟨hp, hc, hu, hst⟩ | ⟨hp, hr, hu, hst⟩ | ⟨-, -, -, hd⟩
  · have hrun : s.engine.state = .run := by simpa [hheld, hstop] using hst
    refine .inl ⟨hp, hc, hu, .inr (.inr ⟨rfl, ?_⟩)⟩
    simp [Machine.enterHeld, modEngine, hrun]
  · have hurgent : s.engine.state = .urgent := by simpa [hheld, hstop] using hst
    refine .inr (.inl ⟨hp, hsus.trans hr, hu, .inr (.inr ⟨rfl, ?_⟩)⟩)
    simp [Machine.enterHeld, modEngine, hurgent]
  · exact absurd hd (not_drains_of_locked hs.drains hlock)

/-- Of the next copy there are two outcomes: it is requested, or the window flips (R65). -/
theorem advance_cases (r : PublishRecord) (s : State) :
    (∃ n, advance r s = ({ s with pubUnit := .reading r n }, false)) ∨
    ∃ t, advance r s = (t, true) ∧ t.pubUnit = .ready ∧ t.engine = s.engine ∧ Rid r.handle s t := by
  cases hp : s.paired? r.handle with
  | none =>
    exact .inr ⟨unitReady s, by simp [advance, hp], rfl, rfl,
      .of_none (not_hasWork_of_unmatched hp) (hasWork_congr rfl)⟩
  | some x =>
    obtain ⟨w, p⟩ := x
    cases hn : nextCopyLine w p with
    | some n => exact .inl ⟨n, by simp [advance, hp, hn]⟩
    | none => exact .inr ⟨flip r s, by simp [advance, hp, hn], flip_pubUnit _ _, flip_engine _ _, rid_flip r s⟩

section
variable {s : State} {r : PublishRecord} (hs : WorkLaws s) (h0 : s.pubUnit.record? = some r)
  (hheld : s.engine.state ≠ .held)
include hs h0 hheld

/-- The boundary for the requests in `q`, where the publish goes on with the record `x`. -/
theorem reported_boundaryAction {q x : PublishRecord}
    (hx : x.handle = r.handle ∧ x.idle = r.idle ∧ x.abandons = r.abandons ∧ x.suspend = r.suspend)
    (hsus : q.abandons = [] → q.suspend = true → r.suspend = true ∧ s.engine.state ≠ .stopping)
    (hlock : q.abandons = [] → s.isLocked r.handle = true → s.engine.state ≠ .stopping) :
    Reported r.handle (boundaryAction q x s) := by
  obtain ⟨hh, hi, hab, hsu⟩ := hx
  unfold boundaryAction
  split
  · rw [hh]
    split
    · exact .ended (.of_retire hs h0) (by simp) (by simp)
    · exact .ended (.of_abandon hs h0) (by simp) (by simp)
  · rename_i hq
    split
    · rename_i hqs
      obtain ⟨hrs, hstop⟩ := hsus hq hqs
      exact .suspended (.of_regular hs h0 (hs.regular_of_suspend h0 hrs)
        (kept_drainsAndLocksSound.unitReady hs.drains) rfl
        (fun y hy => ⟨hasWork_congr (s := s) rfl y hy, fun h => absurd h hstop⟩) rfl)
    · rw [hh]
      split
      · rename_i hl
        exact .paused (hs.enterHeld h0 hh hsu hl hheld (hlock hq hl))
      · have hd := kept_drainsAndLocksSound.advance x hs.drains (.inl ⟨r, h0, hh.symm, hi.symm⟩)
        rcases advance_cases x s with ⟨n, e⟩ | ⟨t, e, hu, he, hrid⟩
        · rw [e]
          refine .copying (hs.withRecord h0 rfl hh (iff_of_false hheld (by simp)) (by rw [hab]; exact id)
            fun h => .inl (hsu ▸ h))
        · rw [e] at hd ⊢
          exact .ended (.of_rid hs h0 hd hu (hh ▸ hrid) (congrArg Engine.post he)) (by simp) (by simp)

omit hs h0 hheld in
theorem older_suspend {r : PublishRecord} (h : r.older.suspend = true) : r.suspend = true := by
  simp only [PublishRecord.older, Bool.and_eq_true] at h
  exact h.1

omit hs h0 hheld in
/-- A suspend that has waited leaves the boundary no request but a RETIRE's (R66, R75). -/
theorem abandons_of_older {r : PublishRecord} (ha : r.older.abandons = []) (hsu : r.older.suspend = true)
    (hret : AbandonCause.retired ∉ r.abandons) : r.abandons = [] := by
  have hcond : (r.suspend && r.suspendWaited) = true := hsu
  simp only [PublishRecord.older, hcond, if_true, List.append_eq_nil_iff] at ha
  obtain ⟨htake, hfilter⟩ := ha
  rw [← List.take_append_drop r.waited r.abandons, htake, List.nil_append]
  refine List.eq_nil_iff_forall_not_mem.2 fun c hc => ?_
  have hall := List.filter_eq_nil_iff.1 hfilter c hc
  have hcr : c = .retired := by simpa using hall
  exact hret (hcr ▸ List.mem_of_mem_drop hc)

omit hs h0 hheld in
theorem boundaryAction_not_paused {q x : PublishRecord} (hl : s.isLocked x.handle = false) :
    (boundaryAction q x s).2 ≠ some .paused := by
  unfold boundaryAction
  split
  · split <;> simp
  · split
    · simp
    · rw [hl]
      simp only [Bool.false_eq_true, if_false]
      split <;> simp

omit h0 hheld hs in
/-- A RETIRE that comes after the boundary that ended the publish frees the window (R156). -/
theorem reported_freeAfter {x : State × Option UnitReport} (hx : Reported r.handle x)
    (hp : x.2 ≠ some .paused) : Reported r.handle (freeAfter r x) := by
  unfold freeAfter
  split
  · rename_i hc
    cases hx with
    | copying ht => simp at hc
    | paused ht => exact absurd rfl hp
    | @suspended t ht =>
      have he := retireAtBoundary_post r.handle t
      refine .suspended ⟨kept_drainsAndLocksSound.retireAtBoundary _ ht.drains, retireAtBoundary_pubUnit _ _,
        fun x hx => ?_, fun h => ht.active ((congrArg Post.state he).symm.trans h), (congrArg Post.context he).trans ht.context,
        (congrArg Post.purpose he).trans ht.purpose⟩
      obtain ⟨hne, hx⟩ := rid_retireAtBoundary r.handle t x hx
      exact absurd (ht.sole x hx).1 hne
    | ended ht hsus hpause => exact .ended (ht.retireAtBoundary _) hsus hpause
  · exact hx

/-- The line boundary, early or not (R65, R66). -/
theorem reported_boundary (early : Bool) : Reported r.handle (boundary early r s) := by
  unfold boundary
  split
  · rename_i hc
    by_cases hsu : r.older.abandons = [] ∧ r.older.suspend = true
    · have e : boundaryAction r.older r.wait s = (unitReady s, some .suspended) := by
        simp [boundaryAction, hsu.1, hsu.2]
      have hreg := hs.regular_of_suspend h0 (older_suspend hsu.2)
      rw [e]
      unfold freeAfter
      split
      · refine .suspended (.of_regular hs h0 hreg
          (kept_drainsAndLocksSound.retireAtBoundary _ (kept_drainsAndLocksSound.unitReady hs.drains))
          (retireAtBoundary_pubUnit _ _) (fun x hx => ?_) (retireAtBoundary_post _ _))
        obtain ⟨hne, hx⟩ := rid_retireAtBoundary _ _ x hx
        exact ⟨hasWork_congr (s := s) rfl x hx, fun _ => hne⟩
      · rename_i hnot
        have hret : AbandonCause.retired ∉ r.abandons := fun hret =>
          hnot ⟨rfl, hret, by rw [hsu.1]; exact List.not_mem_nil⟩
        have hstop : s.engine.state ≠ .stopping := fun h =>
          hs.abandoned h0 h (abandons_of_older hsu.1 hsu.2 hret)
        exact .suspended (.of_regular hs h0 hreg (kept_drainsAndLocksSound.unitReady hs.drains) rfl
          (fun x hx => ⟨hasWork_congr (s := s) rfl x hx, fun h => absurd h hstop⟩) rfl)
    · refine reported_freeAfter (reported_boundaryAction hs h0 hheld ⟨rfl, rfl, rfl, rfl⟩
        (fun ha hq => absurd ⟨ha, hq⟩ hsu) fun _ hl => ?_) (boundaryAction_not_paused hc.2)
      rw [hc.2] at hl
      cases hl
  · exact reported_boundaryAction hs h0 hheld ⟨rfl, rfl, rfl, rfl⟩
      (fun ha hq => ⟨hq, fun h => hs.abandoned h0 h ha⟩) fun ha _ h => hs.abandoned h0 h ha

end

theorem offerFault_onDuty (f : FaultRecord) (s : State) : OnDuty s (offerFault f s) :=
  ⟨offerFault_only f s, by unfold offerFault; split <;> rfl⟩

theorem reported_failedBoundary {s : State} {r : PublishRecord} (a : Nat) (wr : Bool) (hs : WorkLaws s)
    (h0 : s.pubUnit.record? = some r) : Reported r.handle (failedBoundary r a wr s) := by
  let t := raise .publishFault (offerFault (.lineCopy (BitVec.ofNat 32 a) wr r.handle.index) s)
  have fault : OnDuty s t := (offerFault_onDuty _ s).trans (.raise _ _)
  have ht : WorkLaws t := hs.onDuty fault
  have ht0 : t.pubUnit.record? = some r := by rw [fault.only.pubUnit, h0]
  unfold failedBoundary
  dsimp only
  split
  · exact .ended (.of_retire ht ht0) (by simp) (by simp)
  · exact .ended (.of_abandon ht ht0) (by simp) (by simp)

end Sys2Proof.Machine
end

section
/-! O59: the law of working sets through the copies, the triggers, the commands and the step (R75, R84, R87, R101,
R107, R110, R131, R156). -/

namespace Sys2Proof.Machine

/-- A change of neither the slots, nor the unit, nor the engine. -/
theorem WorkOwned.of_outer {s t : State} (hs : WorkOwned s) (h : t.slots = s.slots) (hu : t.pubUnit = s.pubUnit)
    (he : t.engine.duty = s.engine.duty) : WorkOwned t :=
  hs.carry (hasWork_congr h) (fun _ _ => (NoNewWork.of_slots h).drains _) hu he

theorem WorkOwned.served {s t : State} (hs : WorkOwned s) (h : Served s t) : WorkOwned t := by
  have hn : NoNewWork s t := .of_agree (h.agree _ errand_setDirty)
  exact hs.carry hn.work (fun _ _ => hn.drains _) h.pubUnit (congrArg Engine.duty h.engine)

theorem WorkOwned.aside {s t : State} (hs : WorkOwned s) (h : Aside s t) : WorkOwned t := by
  obtain ⟨c, n, he⟩ := h.engine
  exact hs.of_outer h.slots h.pubUnit (by rw [he]; rfl)

theorem WorkLaws.complete {s : State} (st : Status) (res : List Word) (hs : WorkLaws s) :
    WorkLaws (complete st res s) :=
  ⟨hs.toWorkOwned.of_outer rfl rfl rfl, kept_drainsAndLocksSound.complete st res hs.drains⟩

theorem WorkLaws.refuse {s : State} (st : Status) (hs : WorkLaws s) : WorkLaws (refuseCommand st s) :=
  hs.complete st []

/-! ### Line copies and the continue -/

theorem copying_not_held {s : State} {r : PublishRecord} (hs : WorkLaws s) (h0 : s.pubUnit.record? = some r)
    (hp : s.pubUnit ≠ .paused r) : s.engine.state ≠ .held := fun h => hp ((hs.held_iff h0).1 h)

theorem WorkLaws.copyReadDone {s : State} {r : PublishRecord} {n : Nat} (m a len : Nat) (err : Bool)
    (hs : WorkLaws s) (hu : s.pubUnit = .reading r n) : WorkLaws (copyReadDone r m a len err s) := by
  have h0 : s.pubUnit.record? = some r := by rw [hu]; rfl
  unfold Machine.copyReadDone
  split
  · exact (reported_failedBoundary _ _ hs h0).taken
  · refine hs.withRecord h0 rfl rfl (iff_of_false (copying_not_held hs h0 ?_) (by simp)) id .inl
    rw [hu]
    simp

theorem WorkLaws.copyWriteDone {s : State} {r : PublishRecord} {n : Nat} {bs : List Byte} (m a : Nat)
    (err early : Bool) (hs : WorkLaws s) (hu : s.pubUnit = .writing r n bs) :
    WorkLaws (copyWriteDone r m a bs err early s) := by
  have h0 : s.pubUnit.record? = some r := by rw [hu]; rfl
  have hheld : s.engine.state ≠ .held := copying_not_held hs h0 (by rw [hu]; simp)
  unfold Machine.copyWriteDone
  split
  · have failed : WorkLaws (storeWriteFailed a bs.length s) :=
      ⟨hs.toWorkOwned.of_outer rfl rfl rfl, kept_drainsAndLocksSound.failedWrite _ _ hs.drains⟩
    exact (reported_failedBoundary _ _ failed h0).taken
  · have written : WorkLaws (storeWrite a bs s) :=
      ⟨hs.toWorkOwned.of_outer rfl rfl rfl, kept_drainsAndLocksSound.store _ _ hs.drains⟩
    have noted : OnDuty (storeWrite a bs s) (noteCopied (storeWrite a bs s)) := .noteCopied _
    have placed : WorkLaws (setCopyPosition r.handle (m + 1) (noteCopied (storeWrite a bs s))) :=
      (written.onDuty noted).noNewWork (kept_drainsAndLocksSound.position _ _ (written.onDuty noted).drains)
        (.of_agree (agreeErrand_setCopyPosition _ _ _)) (setCopyPosition_pubUnit _ _ _)
        (congrArg Engine.duty (setCopyPosition_engine _ _ _))
    refine Reported.taken (reported_boundary placed ?_ ?_ early)
    · rw [setCopyPosition_pubUnit, noted.only.pubUnit, storeWrite_pubUnit]
      exact h0
    · rw [setCopyPosition_engine, show (noteCopied (storeWrite a bs s)).engine.state = s.engine.state from
        congrArg (fun d => d.post.state) noted.duty]
      exact hheld

theorem unitStep_workOwned {s : State} {f : State → State} (hs : WorkLaws s)
    (h : ∀ t, WorkLaws t → t.pubUnit = s.pubUnit → WorkLaws (f t)) : Goes WorkOwned (unitStep f s) := by
  have given : WorkLaws (giveUp s) :=
    ⟨hs.toWorkOwned.of_outer rfl rfl rfl, kept_drainsAndLocksSound.giveUp hs.drains⟩
  exact Goes.next ((h _ given rfl).toWorkOwned.served (.arbitrate _))

/-- A unit without a publish changes to another such state, or is READY. -/
theorem WorkLaws.unpublished {s : State} {u : PubUnit} (hs : WorkLaws s) (h0 : s.pubUnit.record? = none)
    (hu : u.record? = none) : WorkLaws { s with pubUnit := u } := by
  refine WorkLaws.mk ⟨fun x hx => .inr (hs.awaits h0 x (hasWork_congr (s := s) rfl x hx)),
    fun hi => ⟨hu, (hs.idle hi).2⟩, fun _ => hs.purpose h0, fun r hr => ?_⟩
    (hs.drains.of_slots rfl (.of_locks rfl) rfl)
  rw [show ({ s with pubUnit := u } : State).pubUnit.record? = none from hu] at hr
  cases hr

theorem WorkLaws.orphanEnd {s : State} (hs : WorkLaws s) (h0 : s.pubUnit.record? = none) :
    WorkLaws (orphanEnd s) := ((hs.unpublished (u := .ready) h0 rfl).complete .done []).boundaryChoice

theorem lineCopyReadDone_workOwned {s : State} (err : Bool) (hi : IdleBankSound s) (hs : WorkLaws s) :
    Goes WorkOwned (lineCopyReadDone err s) := by
  have same := Goes.next (P := WorkOwned) hs.toWorkOwned
  unfold lineCopyReadDone
  split
  · split
    · exact same
    · exact same
    · exact same
    · exact same
    · rename_i r n hu
      split
      · rename_i hn
        obtain ⟨w, p, hp, -⟩ := hi r (by rw [hu]; rfl)
        rw [hn] at hp
        cases hp
      · split
        · exact unitStep_workOwned hs fun t ht hp => ht.copyReadDone _ _ _ _ (by rw [hp, hu])
        · exact Goes.fault _
    · rename_i src dst len hu
      split
      · refine unitStep_workOwned hs fun t ht hp => ?_
        have h0 : t.pubUnit.record? = none := by rw [hp, hu]; rfl
        unfold orphanReadDone
        split
        · exact ht.orphanEnd h0
        · exact ht.unpublished h0 rfl
      · exact Goes.fault _
  · exact same

theorem lineBoundary_workOwned {s : State} (err early : Bool) (hi : IdleBankSound s) (hs : WorkLaws s) :
    Goes WorkOwned (lineBoundary err early s) := by
  have same := Goes.next (P := WorkOwned) hs.toWorkOwned
  unfold lineBoundary
  split
  · split
    · exact same
    · exact same
    · exact same
    · exact same
    · rename_i r n bs hu
      split
      · rename_i hn
        obtain ⟨w, p, hp, -⟩ := hi r (by rw [hu]; rfl)
        rw [hn] at hp
        cases hp
      · split
        · exact unitStep_workOwned hs fun t ht hp => ht.copyWriteDone _ _ _ _ (by rw [hp, hu])
        · exact Goes.fault _
    · rename_i dst bs hu
      split
      · refine unitStep_workOwned hs fun t ht hp => ?_
        have h0 : t.pubUnit.record? = none := by rw [hp, hu]; rfl
        unfold orphanWriteDone
        split
        · exact WorkLaws.orphanEnd (s := storeWriteFailed dst bs.length t)
            ⟨ht.toWorkOwned.of_outer rfl rfl rfl, kept_drainsAndLocksSound.failedWrite _ _ ht.drains⟩ h0
        · exact WorkLaws.orphanEnd (s := storeWrite dst bs t)
            ⟨ht.toWorkOwned.of_outer rfl rfl rfl, kept_drainsAndLocksSound.store _ _ ht.drains⟩ h0
      · exact Goes.fault _
  · exact same

/-- The state that the engine leaves HELD for accounts for the publish (R131). -/
theorem accounts_leaveHeld {s : State} {b : Bool} {D : Prop} (h : s.engine.accounts b D)
    (hheld : s.engine.state = .held) : (leaveHeld s).engine.accounts b D ∧
      ((leaveHeld s).engine.state = .run ∨ (leaveHeld s).engine.state = .urgent) := by
  unfold Engine.accounts at h
  simp only [hheld, reduceCtorEq, false_or, true_and, and_false, false_and, or_false] at h
  rcases h with ⟨hp, hc, hu, hf⟩ | ⟨hp, hb, hu, hf⟩
  · have hst : (leaveHeld s).engine.state = .run := by simp [leaveHeld, modEngine, hf, HeldFrom.state]
    exact ⟨.inl ⟨hp, hc, hu, .inl hst⟩, .inl hst⟩
  · have hst : (leaveHeld s).engine.state = .urgent := by simp [leaveHeld, modEngine, hf, HeldFrom.state]
    exact ⟨.inr (.inl ⟨hp, hb, hu, .inl hst⟩), .inr hst⟩

theorem WorkLaws.leavePaused {s : State} {r : PublishRecord} (hs : WorkLaws s) (hu : s.pubUnit = .paused r) :
    WorkLaws (leavePaused r s) := by
  have h0 : s.pubUnit.record? = some r := by rw [hu]; rfl
  have hheld : s.engine.state = .held := (hs.held_iff h0).2 hu
  obtain ⟨hacc, hst⟩ := accounts_leaveHeld (hs.accounts h0) hheld
  have hleft : DrainsAndLocksSound (leaveHeld s) := kept_drainsAndLocksSound.engineOnly (.leaveHeld s) hs.drains
  have hd := kept_drainsAndLocksSound.advance r hleft (.inl ⟨r, h0, rfl, rfl⟩)
  unfold Machine.leavePaused
  rcases advance_cases r (leaveHeld s) with ⟨n, e⟩ | ⟨t, e, hready, he, hrid⟩
  · rw [e] at hd ⊢
    refine hs.goesOn h0 hd (hasWork_congr rfl) rfl rfl rfl (publishSound_iff.2 ⟨iff_of_false ?_ (by simp), ?_, hacc⟩)
    · rcases hst with h | h <;> · intro hh; rw [show (leaveHeld s).engine.state = _ from hh] at h; cases h
    · rcases hst with h | h <;> · intro hh; rw [show (leaveHeld s).engine.state = _ from hh] at h; cases h
  · rw [e] at hd ⊢
    have ended : Ended t := by
      refine ⟨hd, hready, fun x hx => ?_, fun hi => ?_⟩
      · obtain ⟨hne, hx⟩ := hrid x hx
        exact awaits_congr (e := s.engine) (by rw [he]; rfl)
          (hs.awaits_of_ne h0 (hasWork_congr (s := s) rfl x hx) hne)
      · rw [he] at hi
        rcases hst with h | h <;> · rw [hi] at h; cases h
    exact ended.takeReport _ (by simp)

theorem takeContinue_workOwned {s : State} (hs : WorkLaws s) : WorkOwned (takeContinue s) := by
  have taken : WorkLaws { s with continues := s.continues - 1 } :=
    ⟨hs.toWorkOwned.of_outer rfl rfl rfl, hs.drains.of_slots rfl (.of_locks rfl) rfl⟩
  unfold takeContinue
  dsimp only
  split
  · exact taken.toWorkOwned
  · exact taken.toWorkOwned
  · exact taken.toWorkOwned
  · exact taken.toWorkOwned
  · exact taken.toWorkOwned
  · rename_i r hu
    split
    · exact taken.toWorkOwned
    · exact (WorkLaws.leavePaused taken hu).toWorkOwned.served (.arbitrate _)

/-! ### The triggers -/

theorem WorkLaws.regularTrigger {s : State} (hs : WorkLaws s) : WorkLaws (regularTrigger s).1 := by
  unfold Machine.regularTrigger
  split
  · exact hs.onDuty (.raise _ s)
  · split
    · exact (hs.onDuty (.beginRun s)).boundaryChoice
    · exact hs.onDuty ⟨⟨rfl, rfl⟩, rfl⟩

/-- A held publish that no urgent run asked for is regular, and is suspended at once (R110). -/
theorem WorkLaws.suspendHeld {s : State} (hs : WorkLaws s) (hu : s.engine.urgentRun = none) :
    WorkLaws (suspendHeld s) := by
  unfold Machine.suspendHeld
  split
  · rename_i r hp
    have h0 : s.pubUnit.record? = some r := by rw [hp]; rfl
    have hheld : s.engine.state = .held := (hs.held_iff h0).2 hp
    have hreg : s.engine.purpose = some .regular := by
      rcases hs.accounts h0 with ⟨h, -⟩ | ⟨-, -, h, -⟩ | ⟨-, -, h, -⟩
      · exact h
      · exact absurd hu h
      · rw [hheld] at h
        simp at h
    refine Suspended.takeReport (.of_regular hs h0 hreg (kept_drainsAndLocksSound.unitReady hs.drains) rfl
      (fun x hx => ⟨hasWork_congr (s := s) rfl x hx, fun h => ?_⟩) rfl)
    rw [hheld] at h
    cases h
  all_goals exact hs

theorem WorkLaws.urgentTrigger {s : State} (hs : WorkLaws s) : WorkLaws (urgentTrigger s).1 := by
  have requested : WorkLaws (modEngine (fun e => { e with urgentRequested := true }) s) :=
    hs.onDuty (.modEngine rfl rfl)
  unfold Machine.urgentTrigger
  split
  · exact hs.onDuty (.raise _ s)
  · rename_i hdrop
    have hur : s.engine.urgentRun = none := by
      simp only [urgentDropped, Bool.or_eq_true, not_or, Bool.not_eq_true, Option.isSome_eq_false_iff,
        Option.isNone_iff_eq_none] at hdrop
      exact hdrop.2
    dsimp only
    split
    · exact requested.boundaryChoice
    · rename_i hrun
      exact requested.requestSuspend hrun
    · exact requested.suspendHeld hur
    all_goals exact requested

/-! ### SEQ, USEQ and STOP -/

theorem WorkLaws.abandonHeld {s : State} {c : AbandonCause} (hs : WorkLaws s) : WorkLaws (abandonHeld c s) := by
  unfold Machine.abandonHeld
  split
  · rename_i r hp
    exact (Ended.of_abandon hs (r := r) (by rw [hp]; rfl)).takeReport _ (by simp)
  all_goals exact hs

theorem abandonContext_engine (s : State) :
    (abandonContext s).engine = { s.engine with context := none } := by
  unfold abandonContext
  split
  · rename_i hc
    exact (congrArg (fun c => ({ s.engine with context := c } : Engine)) hc)
  · split
    · show ({ (mergeWork _ s).engine with context := none } : Engine) = _
      rw [mergeWork_engine]
    · rfl

theorem drains_abandonContext {s : State} {x : Handle} (hd : s.drains x) : (abandonContext s).drains x := by
  unfold abandonContext
  split
  · exact hd
  · split
    · exact (NoNewWork.of_slots rfl).drains x (drains_mergeWork hd)
    · exact (NoNewWork.of_slots rfl).drains x hd

/-- Without its context the engine accounts for the publish as before. -/
theorem WorkLaws.abandonContext {s : State} (hs : WorkLaws s) : WorkLaws (abandonContext s) := by
  have he := abandonContext_engine s
  have hu := EngineKept.abandonContext_pubUnit s
  refine WorkLaws.mk ⟨fun x hx => ?_, fun hi => ?_, fun hr => ?_, fun r hr => ?_⟩
    (kept_drainsAndLocksSound.abandonContext hs.drains)
  · obtain ⟨hk, hn⟩ := abandonContext_work hx
    rw [hu]
    exact .inl ((hs.owned x hk).resolve_right hn)
  · rw [hu, he]
    rw [he] at hi
    exact ⟨(hs.idle hi).1, rfl⟩
  · rw [hu] at hr
    rw [he]
    exact hs.purpose hr
  · rw [hu] at hr
    refine publishSound_iff.2 ⟨by rw [he, hu]; exact hs.held_iff hr, by rw [he]; exact hs.abandoned hr, ?_⟩
    rw [he]
    rcases hs.accounts hr with ⟨hp, -, h⟩ | ⟨hp, hb, h⟩ | ⟨hp, hb, hst, hd⟩
    · exact .inl ⟨hp, rfl, h⟩
    · exact .inr (.inl ⟨hp, hb, h⟩)
    · exact .inr (.inr ⟨hp, hb, hst, drains_abandonContext hd⟩)

theorem WorkLaws.seqEffect {s : State} (hs : WorkLaws s) : WorkLaws (seqEffect s) := by
  have marked : WorkLaws (modEngine (fun e => { e with restartPass := true }) s) :=
    hs.onDuty (.modEngine rfl rfl)
  unfold Machine.seqEffect
  split
  · exact hs.abandonContext.onDuty (.restartPass _)
  · split
    · exact marked.abandonHeld
    · split
      · exact marked.requestAbandon .seq
      · split
        · split
          · exact hs.onDuty (.restartPass s)
          · exact hs.onDuty ((OnDuty.writePass _ s).trans (.modEngine rfl rfl))
        · exact hs

theorem WorkLaws.useqEffect {s : State} (hs : WorkLaws s) : WorkLaws (useqEffect s) := by
  have marked : WorkLaws (modEngine (fun e => { e with restartUrgent := true }) s) :=
    hs.onDuty (.modEngine rfl rfl)
  unfold Machine.useqEffect
  split
  · exact hs
  · dsimp only
    split
    · exact marked.abandonHeld
    · exact marked.requestAbandon .useq

theorem WorkLaws.seqCommand {s : State} (cnt : BitVec 8) (hs : WorkLaws s) : WorkLaws (seqCommand cnt s) := by
  unfold Machine.seqCommand
  split
  · exact hs.refuse _
  · split
    · exact hs.refuse _
    · rename_i l _
      have listed : WorkLaws (modEngine (fun e => { e with regularSeq := l }) s) := hs.onDuty (.modEngine rfl rfl)
      exact (listed.complete .done []).seqEffect

theorem WorkLaws.useqCommand {s : State} (cnt : BitVec 8) (hs : WorkLaws s) : WorkLaws (useqCommand cnt s) := by
  unfold Machine.useqCommand
  split
  · exact hs.refuse _
  · split
    · exact hs.refuse _
    · rename_i l _
      have listed : WorkLaws (modEngine (fun e => { e with urgentList := l }) s) := hs.onDuty (.modEngine rfl rfl)
      exact (listed.complete .done []).useqEffect

/-- In HELD no publish is at the unit but a PAUSED one. -/
theorem WorkLaws.record_of_held {s : State} (hs : WorkLaws s) (hheld : s.engine.state = .held)
    (hp : ∀ r, s.pubUnit ≠ .paused r) : s.pubUnit.record? = none := by
  cases hr : s.pubUnit.record? with
  | none => rfl
  | some r => exact absurd ((hs.held_iff hr).1 hheld) (hp r)

theorem WorkLaws.stopHeld {s : State} (hs : WorkLaws s) (hheld : s.engine.state = .held) :
    WorkLaws (stopHeld s) := by
  have unpaused : (∀ r, s.pubUnit ≠ .paused r) → WorkLaws (Machine.stopEnd s) := fun hp =>
    workLaws_stopEnd hs.drains (hs.record_of_held hheld hp) (hs.awaits (hs.record_of_held hheld hp))
  unfold Machine.stopHeld
  split
  · rename_i r hp
    have ended := Ended.of_abandon hs (r := r) (by rw [hp]; rfl)
    exact workLaws_stopEnd ended.drains rfl ended.owned
  all_goals
    rename_i hu
    exact unpaused fun r => by rw [hu]; simp

/-- The account of a publish that STOP has asked to abandon (R102). -/
theorem Engine.accounts.stopping {e : Engine} {b : Bool} {D E : Prop} (h : e.accounts b D) (hd : D → E) :
    ({ e with state := .stopping } : Engine).accounts b E := by
  rcases h with ⟨hp, hc, hu, -⟩ | ⟨hp, hb, hu, -⟩ | ⟨hp, hb, -, hdr⟩
  · exact .inl ⟨hp, hc, hu, .inr (.inl rfl)⟩
  · exact .inr (.inl ⟨hp, hb, hu, .inr (.inl rfl)⟩)
  · exact .inr (.inr ⟨hp, hb, .inr rfl, hd hdr⟩)

/-- STOP with no publish at the unit. -/
theorem WorkLaws.stopUnpublished {s : State} (hs : WorkLaws s) (h0 : s.pubUnit.record? = none) :
    WorkLaws (modEngine (fun e => { e with state := .stopping }) s) := by
  refine WorkLaws.mk ⟨fun x hx => .inr (hs.awaits h0 x (hasWork_congr (s := s) rfl x hx)),
    fun hi => (by cases hi), fun _ => hs.purpose h0, fun r hr => ?_⟩ (kept_drainsAndLocksSound.modEngine rfl hs.drains)
  rw [show (modEngine _ s).pubUnit.record? = none from h0] at hr
  cases hr

/-- STOP with a copy under way asks for its abandon (R102). -/
theorem WorkLaws.stopCopying {s t : State} {r q : PublishRecord} (hs : WorkLaws s)
    (h0 : s.pubUnit.record? = some r) (hslots : t.slots = s.slots) (hlocks : t.locks = s.locks)
    (he : t.engine = { s.engine with state := .stopping }) (hq : t.pubUnit.record? = some q)
    (hp : t.pubUnit ≠ .paused q) (hrec : q = { r with abandons := r.abandons ++ [.stop] }) : WorkLaws t := by
  subst hrec
  refine hs.goesOn h0 (hs.drains.of_slots (by rw [he]) (.of_locks hlocks) hslots) (hasWork_congr hslots) hq rfl
    (by rw [he]) (publishSound_iff.2 ⟨iff_of_false (by rw [he]; simp) hp, fun _ => by simp, ?_⟩)
  rw [he]
  exact (hs.accounts h0).stopping fun hd => (NoNewWork.of_slots hslots).drains _ hd

theorem WorkLaws.enterStopping {s : State} (hs : WorkLaws s) (hheld : s.engine.state ≠ .held) :
    WorkLaws (enterStopping s) := by
  unfold Machine.enterStopping Machine.requestAbandon
  split
  · rename_i r n hu
    have hu : s.pubUnit = .reading r n := hu
    exact hs.stopCopying (by rw [hu]; rfl) rfl rfl rfl rfl (by simp) rfl
  · rename_i r n bs hu
    have hu : s.pubUnit = .writing r n bs := hu
    exact hs.stopCopying (by rw [hu]; rfl) rfl rfl rfl rfl (by simp) rfl
  · rename_i hu
    exact hs.stopUnpublished (record_of_ready hu)
  · rename_i r hu
    have hu : s.pubUnit = .paused r := hu
    exact absurd ((hs.held_iff (by rw [hu]; rfl)).2 hu) hheld
  · rename_i hu
    exact hs.stopUnpublished (congrArg PubUnit.record? hu)
  · rename_i hu
    exact hs.stopUnpublished (congrArg PubUnit.record? hu)

theorem WorkLaws.stopCommand {s : State} (hs : WorkLaws s) : WorkLaws (stopCommand s) := by
  unfold Machine.stopCommand
  split
  · exact hs.complete _ _
  · rename_i h; exact hs.stopHeld h
  · rename_i h; exact hs.enterStopping (by rw [h]; decide)
  · rename_i h; exact hs.enterStopping (by rw [h]; decide)
  · rename_i h; exact hs.enterStopping (by rw [h]; decide)
  · exact hs

/-! ### RETIRE -/

/-- A window that the unit is not draining is freed at once. -/
theorem WorkLaws.retireNow {s : State} {h : Handle} (hs : WorkLaws s) (hl : s.isLocked h = false)
    (hne : ∀ r, s.pubUnit.record? = some r → s.drains r.handle → r.handle ≠ h) : WorkLaws (retireNow h s) :=
  WorkLaws.complete _ _ (hs.carry (hs.drains.free (locks_of_free_premise hs.drains (.inl hl)))
    (fun x hx => (rid_freeWindow h s x hx).2) (fun r hr hd => drains_freeWindow (hne r hr hd) hd)
    (freeWindow_pubUnit h s) (freeWindow_duty h s))

theorem WorkLaws.retirePaired {s : State} {h : Handle} (hs : WorkLaws s) (hl : s.isLocked h = false) :
    WorkLaws (retirePaired h s) := by
  unfold Machine.retirePaired
  split
  · rename_i hh
    split
    · rw [handle?_eq, Option.map_eq_some_iff] at hh
      obtain ⟨r, h0, rfl⟩ := hh
      have hd : DrainsAndLocksSound (Machine.retireNow r.handle (unitReady s)) :=
        kept_drainsAndLocksSound.complete _ _ ((kept_drainsAndLocksSound.unitReady hs.drains).free
          (locks_of_free_premise (kept_drainsAndLocksSound.unitReady hs.drains) (.inl hl)))
      have hrid : Rid r.handle s (Machine.retireNow r.handle (unitReady s)) :=
        ((rid_freeWindow r.handle (unitReady s)).after (hasWork_congr rfl)).then (hasWork_congr rfl)
      exact (Ended.of_rid hs h0 hd (freeWindow_pubUnit _ _) hrid
        (freeWindow_post r.handle (unitReady s))).takeReport _ (by simp)
    · exact hs.requestAbandon .retired
  · rename_i hh
    exact hs.retireNow hl fun r hr _ => record_ne_of_handle? hh r hr

theorem WorkLaws.enterDraining {s : State} {h : Handle} {w : Window} {p : Paired} (hs : WorkLaws s)
    (hp : s.paired? h = some (w, p)) (hd : w.draining = false) (hl : s.isLocked h = false) :
    WorkLaws (enterDraining h w p s) := by
  have entered : WorkLaws (modEngine (fun e => { e with drainQueue := e.drainQueue ++ [h] })
      (s.setPaired h.index w { p with drain := some 0 })) := by
    refine hs.carry (hs.drains.enter hp hd hl) (fun x hx => ?_) (fun r _ hdr => ?_) rfl rfl
    · have := (hasWork_setPaired (s := s) (p' := { p with drain := some 0 }) hp x).1 hx
      split at this
      · rename_i e
        exact e ▸ ⟨w, p, hp, Option.isSome_iff_ne_none.1 this⟩
      · exact this
    · exact (NoNewWork.of_slots rfl).drains _ ((drains_setDrain 0 hp _).2 (.inr hdr))
  unfold Machine.enterDraining
  dsimp only
  split
  · exact (entered.complete _ _).boundaryChoice
  · exact entered.complete _ _

theorem ne_of_drains {s : State} {h x : Handle} {w : Window} (hw : s.window? h = some w) (hd : w.draining = false)
    (hx : s.drains x) : x ≠ h := by
  rintro rfl
  obtain ⟨v, hv, hdv⟩ := hx
  rw [hw] at hv
  cases hv
  rw [hd] at hdv
  cases hdv

theorem WorkLaws.retireCommand {s : State} (hs : WorkLaws s) : WorkLaws (retireCommand s) := by
  unfold Machine.retireCommand
  dsimp only
  split
  · exact hs.refuse _
  · rename_i h w hw
    have hm := (oprWindow_eq_some hw).2
    split
    · exact hs.refuse _
    · rename_i hl
      have hl : s.isLocked h = false := by simpa using hl
      have now : w.draining = false → WorkLaws (Machine.retireNow h s) := fun hd =>
        hs.retireNow hl fun _ _ hx => ne_of_drains hm hd hx
      split
      · exact hs.refuse _
      · split
        · exact hs.refuse _
        · rename_i hdf
          split
          · rename_i hb; exact now (by simp [Window.draining, hb])
          · rename_i hb; exact now (by simp [Window.draining, hb])
          · rename_i hb; exact now (by simp [Window.draining, hb])
          · rename_i p hb
            split
            · exact hs.refuse _
            · split
              · rename_i hf
                exact hs.enterDraining (paired?_eq_some.2 ⟨hm, hb⟩) (by simpa [hf] using hdf) hl
              · exact hs.retirePaired hl

/-! ### The commands on a window's record -/

theorem openBody_works {k : Kind} {l a b : Word} {x : Body} (h : openBody k l a b = some x) (w : Window) :
    ({ w with body := x } : Window).works = false := by
  unfold openBody at h
  split at h
  · cases h
  · split at h
    · cases h; rfl
    · cases h; rfl
    · split at h
      · cases h; rfl
      · cases h
    · cases h

theorem openOperands_works {s : State} {w : Window} (h : openOperands s = some w) : w.works = false := by
  unfold openOperands at h
  simp only [Option.bind_eq_bind, Option.bind_eq_some_iff] at h
  obtain ⟨_, _, ls, _, rm, _, wm, _, g, _, b, hb, h⟩ := h
  split at h
  · cases h
    exact openBody_works hb
      { base := opr s 2, pages := (field (opr s 3) 0 9).toNat, lineSize := ls, readMask := rm,
        writeMask := wm, group := g, body := b }
  · cases h

theorem openCommand_noNewWork (s : State) : NoNewWork s (openCommand s) := by
  unfold openCommand
  split
  · exact .of_slots rfl
  · rename_i i hi
    split
    · exact .of_slots rfl
    · rename_i w hw
      split
      · exact .of_slots rfl
      · split
        · exact .of_slots rfl
        · split
          · exact .of_slots rfl
          · exact (noNewWork_fillSlot (freeSlot?_free hi) (openOperands_works hw)).trans (.of_slots rfl)

theorem viewCommand_noNewWork (s : State) : NoNewWork s (viewCommand s) := by
  unfold viewCommand
  split
  · exact .of_slots rfl
  · rename_i i hi
    split
    · exact .of_slots rfl
    · rename_i rm g _
      split
      · exact .of_slots rfl
      · rename_i h w hw
        have hm := (oprWindow_eq_some hw).2
        split
        · exact .of_slots rfl
        · split
          · exact .of_slots rfl
          · exact .of_slots rfl
          · exact .of_slots rfl
          · rename_i p hb
            have hp : s.paired? h = some (w, p) := paired?_eq_some.2 ⟨hm, hb⟩
            have counted : NoNewWork s (s.setPaired h.index w { p with views := p.views + 1 }) :=
              .of_agree (agreeErrand_setPaired hp rfl rfl)
            have hfree : ((s.setPaired h.index w { p with views := p.views + 1 }).slot i).win = none := by
              have hf := freeSlot?_free hi
              rw [slot_setPaired, if_neg, hf]
              rintro rfl
              rw [window?_eq_some, hf] at hm
              cases hm.2
            dsimp only
            split
            · exact .of_slots rfl
            · split
              · exact .of_slots rfl
              · split
                · exact .of_slots rfl
                · exact (counted.trans (noNewWork_fillSlot hfree rfl)).trans (.of_slots rfl)

theorem modifyCommand_noNewWork (s : State) : NoNewWork s (modifyCommand s) := by
  unfold modifyCommand
  split
  · exact .of_slots rfl
  · rename_i h w hw
    have hm := (window?_eq_some.1 (oprWindow_eq_some hw).2).2
    split
    · exact .of_slots rfl
    · split
      · exact .of_slots rfl
      · rename_i rm wm g _
        have changed : Agree Window.errand s
            (s.setWindow h.index { w with readMask := rm, writeMask := wm, group := g }) :=
          agree_setWindow hm rfl
        split
        · exact .of_slots rfl
        · split
          · exact .of_slots rfl
          · exact (NoNewWork.of_agree changed).trans (.of_slots rfl)

theorem openCommand_engine (s : State) : (openCommand s).engine = s.engine := by
  unfold openCommand
  repeat' split
  all_goals rfl

theorem viewCommand_engine (s : State) : (viewCommand s).engine = s.engine := by
  unfold viewCommand
  dsimp only
  repeat' split
  all_goals rfl

theorem modifyCommand_engine (s : State) : (modifyCommand s).engine = s.engine := by
  unfold modifyCommand
  repeat' split
  all_goals rfl

/-- A command on a window's record that leaves the unit and the engine. -/
theorem WorkOwned.record {s t : State} (hs : WorkOwned s) (h : NoNewWork s t) (hu : t.pubUnit = s.pubUnit)
    (he : t.engine = s.engine) : WorkOwned t :=
  hs.carry h.work (fun _ _ => h.drains _) hu (congrArg Engine.duty he)

/-! ### The resets -/

/-- No window has a W, the engine is IDLE with no context and no purpose, and no publish is at the unit. -/
theorem workOwned_of_quiet {s : State} (hw : ∀ h, ¬s.hasWork h) (hu : s.pubUnit.record? = none)
    (hc : s.engine.context = none) (hp : s.engine.purpose = none) : WorkOwned s :=
  ⟨fun h hk => absurd hk (hw h), fun _ => ⟨hu, hc⟩, fun _ => hp, fun r hr => by rw [hu] at hr; cases hr⟩

theorem works_restartWindow (w : Window) : (restartWindow w).works = false := by
  unfold restartWindow
  cases hb : w.body <;> simp [Window.works, hb]

theorem not_hasWork_restartEvent (s : State) (h : Handle) : ¬(restartEvent s).hasWork h := fun hk => by
  obtain ⟨w, hw, hk⟩ := hasWork_iff.1 hk
  rw [window?_restartEvent] at hw
  obtain ⟨v, -, hw⟩ := Option.bind_eq_some_iff.1 hw
  split at hw
  · cases hw
  · cases hw
    rw [works_restartWindow] at hk
    cases hk

theorem restartCommand_workOwned (s : State) : WorkOwned (restartCommand s) := by
  have hr := restartCommand_record s
  rw [(restartCommand_only s).1] at hr ⊢
  exact workOwned_of_quiet (fun h hk => not_hasWork_restartEvent s h (hasWork_congr rfl h hk)) hr rfl rfl

theorem not_hasWork_of_empty {s : State} (h : ∀ i, (s.slot i).win = none) (x : Handle) : ¬s.hasWork x := fun hk => by
  obtain ⟨w, hw, -⟩ := hasWork_iff.1 hk
  rw [window?_eq_some, h] at hw
  cases hw.2

/-! ### The rows and the step -/

/-- A row that acts on a running part. -/
theorem whenRunning_workingSets {s : State} {f : State → Result} (hs : WorkingSetsSound s)
    (h : WorkOwned s → Goes WorkOwned (f s)) : Goes WorkingSetsSound (whenRunning f s) := by
  unfold whenRunning
  split
  · exact Goes.next hs
  · rename_i hr
    exact (h (workingSetsSound_iff.1 hs (by simpa using hr))).mono fun t ht => workingSetsSound_iff.2 fun _ => ht

theorem runningNext_workingSets {s : State} {f : State → State} (hs : WorkingSetsSound s)
    (h : WorkOwned s → WorkOwned (f s)) : Goes WorkingSetsSound (whenRunning (fun t => .next (f t)) s) :=
  whenRunning_workingSets hs fun hw => Goes.next (h hw)

theorem takeCommand_workingSets {s : State} {code cnt : BitVec 8} {body : State → State}
    (hs : WorkingSetsSound s) (hd : DrainsAndLocksSound s) (h : ∀ t, WorkLaws t → WorkOwned (body t)) :
    Goes WorkingSetsSound (takeCommand code cnt body s) := by
  refine whenRunning_workingSets hs fun hw => ?_
  split
  · exact Goes.next (hw.of_outer rfl rfl rfl)
  · exact Goes.next (h _ ⟨hw.of_outer rfl rfl rfl, kept_drainsAndLocksSound.accept _ _ hd⟩)

section
variable {s : State} (hs : WorkingSetsSound s) (hd : DrainsAndLocksSound s) {code cnt : BitVec 8}
include hs hd

/-- A command that changes neither the slots, nor the unit, nor the engine's duty. -/
theorem aside_workingSets {body : State → State} (h : ∀ t, Aside t (body t)) :
    Goes WorkingSetsSound (takeCommand code cnt body s) :=
  takeCommand_workingSets hs hd fun t ht => ht.toWorkOwned.aside (h t)

/-- A command that ends with a decision (R40). -/
theorem decided_workingSets {body : State → State} (h : ∀ t, WorkLaws t → WorkLaws (body t)) :
    Goes WorkingSetsSound (takeCommand code cnt (fun t => arbitrate (body t)) s) :=
  takeCommand_workingSets hs hd fun t ht => (h t ht).toWorkOwned.served (.arbitrate _)

theorem execOpen_workingSets : Goes WorkingSetsSound (execOpen cnt s) :=
  takeCommand_workingSets hs hd fun t ht =>
    ht.toWorkOwned.record (openCommand_noNewWork t) (openCommand_pubUnit t) (openCommand_engine t)

theorem execView_workingSets : Goes WorkingSetsSound (execView cnt s) :=
  takeCommand_workingSets hs hd fun t ht =>
    ht.toWorkOwned.record (viewCommand_noNewWork t) (viewCommand_pubUnit t) (viewCommand_engine t)

theorem execModify_workingSets : Goes WorkingSetsSound (execModify cnt s) :=
  takeCommand_workingSets hs hd fun t ht =>
    ht.toWorkOwned.record (modifyCommand_noNewWork t) (modifyCommand_pubUnit t) (modifyCommand_engine t)

theorem execCollect_workingSets : Goes WorkingSetsSound (execCollect cnt s) :=
  takeCommand_workingSets hs hd fun t ht =>
    ht.toWorkOwned.record (.of_agree (agreeErrand_collectCommand t)) (collectCommand_pubUnit t)
      (collectCommand_engine t)

theorem execRetire_workingSets : Goes WorkingSetsSound (execRetire cnt s) :=
  decided_workingSets hs hd fun _ ht => ht.retireCommand

theorem execSeq_workingSets : Goes WorkingSetsSound (execSeq cnt s) :=
  decided_workingSets hs hd fun _ ht => ht.seqCommand cnt

theorem execUseq_workingSets : Goes WorkingSetsSound (execUseq cnt s) :=
  decided_workingSets hs hd fun _ ht => ht.useqCommand cnt

theorem execStart_workingSets : Goes WorkingSetsSound (execStart cnt s) :=
  decided_workingSets hs hd fun _ ht => ht.regularTrigger.complete _ _

theorem execUrgent_workingSets : Goes WorkingSetsSound (execUrgent cnt s) :=
  decided_workingSets hs hd fun _ ht => ht.urgentTrigger.complete _ _

theorem execStop_workingSets : Goes WorkingSetsSound (execStop cnt s) :=
  decided_workingSets hs hd fun _ ht => ht.stopCommand

theorem execRestart_workingSets : Goes WorkingSetsSound (execRestart cnt s) :=
  takeCommand_workingSets hs hd fun t _ => restartCommand_workOwned t

/-- A command word's command keeps the law (R165). -/
theorem commandWordWrite_workingSets (w : Word) : Goes WorkingSetsSound (commandWordWrite w s) := by
  unfold commandWordWrite
  refine Goes.ite (execOpen_workingSets hs hd) ?_
  refine Goes.ite (execView_workingSets hs hd) ?_
  refine Goes.ite (execModify_workingSets hs hd) ?_
  refine Goes.ite (execRetire_workingSets hs hd) ?_
  refine Goes.ite (aside_workingSets hs hd queryCommand_aside) ?_
  refine Goes.ite (aside_workingSets hs hd lookupCommand_aside) ?_
  refine Goes.ite (aside_workingSets hs hd groupCommand_aside) ?_
  refine Goes.ite (execCollect_workingSets hs hd) ?_
  refine Goes.ite (aside_workingSets hs hd guardCommand_aside) ?_
  refine Goes.ite (aside_workingSets hs hd unguardCommand_aside) ?_
  refine Goes.ite (aside_workingSets hs hd guardqCommand_aside) ?_
  refine Goes.ite (execSeq_workingSets hs hd) ?_
  refine Goes.ite (execUseq_workingSets hs hd) ?_
  refine Goes.ite (aside_workingSets hs hd engsetCommand_aside) ?_
  refine Goes.ite (execStart_workingSets hs hd) ?_
  refine Goes.ite (execUrgent_workingSets hs hd) ?_
  refine Goes.ite (execStop_workingSets hs hd) ?_
  refine Goes.ite (aside_workingSets hs hd breakCommand_aside) ?_
  refine Goes.ite (aside_workingSets hs hd portCommand_aside) ?_
  refine Goes.ite (execRestart_workingSets hs hd) ?_
  exact aside_workingSets hs hd fun _ => .of_eq rfl

theorem managementWrite_workingSets (a v : Word) : Goes WorkingSetsSound (managementWrite a v s) := by
  unfold managementWrite
  dsimp only
  split
  · exact commandWordWrite_workingSets hs hd v
  · split
    · exact runningNext_workingSets hs fun hw => hw.of_outer rfl rfl rfl
    · split
      · exact runningNext_workingSets hs fun hw => hw.of_outer rfl rfl rfl
      · split
        · exact runningNext_workingSets hs fun hw => hw.aside (clearFault_aside v s)
        · split
          · exact runningNext_workingSets hs fun hw => hw.of_outer rfl rfl rfl
          · exact Goes.next hs

end

theorem paceExpires_workOwned {s : State} (hs : WorkLaws s) : WorkOwned (paceExpires s) := by
  unfold paceExpires
  split
  · refine WorkOwned.served (WorkLaws.toWorkOwned (WorkLaws.regularTrigger ?_)) (.arbitrate _)
    exact hs.onDuty (.modEngine rfl rfl)
  · exact hs.toWorkOwned

theorem tick_workingSets {s : State} (hs : WorkingSetsSound s) (hd : DrainsAndLocksSound s) :
    WorkingSetsSound (tick s) := by
  unfold tick
  split
  · exact hs
  · rename_i hr
    have hw : WorkOwned s := workingSetsSound_iff.1 hs (by simpa using hr)
    have locks : WorkLaws (tickLocks s) :=
      ⟨hw.served (.tickLocks s), kept_drainsAndLocksSound.tickLock 3 (kept_drainsAndLocksSound.tickLock 2
        (kept_drainsAndLocksSound.tickLock 1 (kept_drainsAndLocksSound.tickLock 0 hd)))⟩
    refine workingSetsSound_iff.2 fun _ => ?_
    unfold tickPace
    split
    · exact locks.toWorkOwned
    · split
      · exact paceExpires_workOwned locks
      · exact locks.toWorkOwned.of_outer rfl rfl rfl

/-- Every command keeps the law, where the drain queue, the lock table and the idle bank keep theirs. -/
theorem exec_workingSets {s : State} (c : Instr) (hd : DrainsAndLocksSound s) (hi : IdleBankSound s)
    (hs : WorkingSetsSound s) : Goes WorkingSetsSound (exec c s) := by
  have laws : WorkOwned s → WorkLaws s := fun hw => ⟨hw, hd⟩
  cases c with
  | openWindow cnt => exact execOpen_workingSets hs hd
  | openView cnt => exact execView_workingSets hs hd
  | modify cnt => exact execModify_workingSets hs hd
  | retire cnt => exact execRetire_workingSets hs hd
  | query cnt => exact aside_workingSets hs hd queryCommand_aside
  | lookup cnt => exact aside_workingSets hs hd lookupCommand_aside
  | group cnt => exact aside_workingSets hs hd groupCommand_aside
  | collect cnt => exact execCollect_workingSets hs hd
  | guardSet cnt => exact aside_workingSets hs hd guardCommand_aside
  | unguard cnt => exact aside_workingSets hs hd unguardCommand_aside
  | guardq cnt => exact aside_workingSets hs hd guardqCommand_aside
  | seq cnt => exact execSeq_workingSets hs hd
  | useq cnt => exact execUseq_workingSets hs hd
  | engset cnt => exact aside_workingSets hs hd engsetCommand_aside
  | start cnt => exact execStart_workingSets hs hd
  | urgent cnt => exact execUrgent_workingSets hs hd
  | stop cnt => exact execStop_workingSets hs hd
  | breakOne cnt => exact aside_workingSets hs hd breakCommand_aside
  | setLimit cnt => exact aside_workingSets hs hd breakCommand_aside
  | port cnt => exact aside_workingSets hs hd portCommand_aside
  | restart cnt => exact execRestart_workingSets hs hd
  | unknownCommand w => exact commandWordWrite_workingSets hs hd w
  | commandWordIgnored w => exact commandWordWrite_workingSets hs hd w
  | operandWrite n v => exact runningNext_workingSets (f := writeOperand n v) hs fun hw => hw.of_outer rfl rfl rfl
  | eventClear v => exact runningNext_workingSets (f := clearEvents v) hs fun hw => hw.of_outer rfl rfl rfl
  | eventEnableWrite v => exact runningNext_workingSets (f := writeEnables v) hs fun hw => hw.of_outer rfl rfl rfl
  | faultClear v => exact runningNext_workingSets (f := clearFault v) hs fun hw => hw.aside (clearFault_aside v s)
  | registerWriteDiscarded a v => exact managementWrite_workingSets hs hd a v
  | trigREdge =>
    refine runningNext_workingSets (f := trigR) hs fun hw => ?_
    unfold trigR
    split
    · exact (laws hw).regularTrigger.toWorkOwned.served (.arbitrate _)
    · exact hw
  | trigUEdge =>
    refine runningNext_workingSets (f := trigU) hs fun hw => ?_
    unfold trigU
    split
    · exact (laws hw).urgentTrigger.toWorkOwned.served (.arbitrate _)
    · exact hw
  | paceExpiry => exact runningNext_workingSets (f := paceExpires) hs fun hw => paceExpires_workOwned (laws hw)
  | holdTimerExpiry p =>
    exact runningNext_workingSets (f := holdExpires p) hs fun hw => hw.served (.holdExpires p s)
  | coldReset c => exact Goes.next (workingSetsSound_iff.2 fun hr => by cases hr)
  | coldResetEnd z p =>
    show Goes WorkingSetsSound (execColdResetEnd z p s)
    unfold execColdResetEnd
    split
    · exact Goes.next hs
    · exact Goes.next (workingSetsSound_iff.2 fun _ =>
        workOwned_of_quiet (not_hasWork_of_empty fun i => by rw [slot_cold]) rfl rfl rfl)
  | requesterAccess p c z a d =>
    show Goes WorkingSetsSound (execRequester p c z a d s)
    unfold execRequester
    refine whenRunning_workingSets hs fun hw => ?_
    split
    · exact Goes.next hw
    · exact Goes.next (hw.served (.takeAccess p c z a d s))
  | storeAccessDone e =>
    exact whenRunning_workingSets hs fun hw => (Served.storeAccessDone e s).mono fun _ h => hw.served h
  | mergingReadDone e n =>
    exact whenRunning_workingSets hs fun hw => (Served.mergingReadDone e n s).mono fun _ h => hw.served h
  | lineCopyReadDone e =>
    exact whenRunning_workingSets hs fun hw => lineCopyReadDone_workOwned e hi (laws hw)
  | lineBoundary e =>
    exact whenRunning_workingSets hs fun hw => lineBoundary_workOwned e.err e.early hi (laws hw)
  | continuePublish =>
    show Goes WorkingSetsSound (execContinue s)
    unfold execContinue
    refine whenRunning_workingSets hs fun hw => ?_
    split
    · exact Goes.next hw
    · exact Goes.next (takeContinue_workOwned (laws hw))

theorem step_workingSets {s : State} (hd : DrainsAndLocksSound s) (hi : IdleBankSound s)
    (hs : WorkingSetsSound s) : Goes WorkingSetsSound (step s) := by
  unfold step
  split
  · exact Goes.next (tick_workingSets hs hd)
  · rename_i c q _
    have hd' : DrainsAndLocksSound { s with pending := q } := hd.of_slots rfl (.of_locks rfl) rfl
    have hs' : WorkingSetsSound { s with pending := q } := workingSetsSound_iff.2 fun hr =>
      (workingSetsSound_iff.1 hs hr).of_outer rfl rfl rfl
    exact exec_workingSets c hd' hi hs'

/-! ### How many windows have a W -/

/-- Of two windows with a W one is the suspended context's. -/
theorem WorkOwned.context_of_two {s : State} (hs : WorkOwned s) {h k : Handle} (hne : h ≠ k) (hh : s.hasWork h)
    (hk : s.hasWork k) : ∃ c, s.engine.context = some c ∧ (c.handle = h ∨ c.handle = k) := by
  rcases hs.owned h hh with ⟨r, hr, rfl⟩ | ⟨c, hc, hch, -⟩
  · rcases hs.owned k hk with ⟨q, hq, rfl⟩ | ⟨c, hc, hck, -⟩
    · rw [hr] at hq
      cases hq
      exact absurd rfl hne
    · exact ⟨c, hc, .inr hck⟩
  · exact ⟨c, hc, .inl hch⟩

theorem WorkOwned.at_most_two {s : State} (hs : WorkOwned s) {h k l : Handle} (hh : s.hasWork h)
    (hk : s.hasWork k) (hl : s.hasWork l) : h = k ∨ k = l ∨ h = l := by
  have same : ∀ {x y : Handle}, (∃ r, s.pubUnit.record? = some r ∧ r.handle = x) →
      (∃ r, s.pubUnit.record? = some r ∧ r.handle = y) → x = y := by
    rintro x y ⟨r, hr, rfl⟩ ⟨q, hq, rfl⟩
    rw [hr] at hq
    cases hq
    rfl
  have waits : ∀ {x y : Handle}, s.engine.awaits x → s.engine.awaits y → x = y := by
    rintro x y ⟨c, hc, rfl, -⟩ ⟨d, hd, rfl, -⟩
    rw [hc] at hd
    cases hd
    rfl
  rcases hs.owned h hh with ah | ah <;> rcases hs.owned k hk with ak | ak
  · exact .inl (same ah ak)
  · rcases hs.owned l hl with al | al
    · exact .inr (.inr (same ah al))
    · exact .inr (.inl (waits ak al))
  · rcases hs.owned l hl with al | al
    · exact .inr (.inl (same ak al))
    · exact .inr (.inr (waits ah al))
  · exact .inl (waits ah ak)

theorem WorkOwned.none_of_idle {s : State} (hs : WorkOwned s) (hi : s.engine.state = .idle) (h : Handle) :
    ¬s.hasWork h := fun hk => by
  obtain ⟨hr, hc⟩ := hs.idle hi
  exact not_awaits_of_none hc h (hs.awaits hr h hk)

end Sys2Proof.Machine

namespace Sys2Proof

open Machine

/-- Settles O59: a W passes from the WAITING context to the publish of its window and back, and goes with the flip,
the merge or the freeing that ends the publish. -/
theorem stepKeepsTheWorkingSetsSound : Obligations.StepKeepsTheWorkingSetsSound := by
  refine ⟨fun s t hd hi hs ht => step_workingSets hd hi hs t ht, fun s hs hr => ?_⟩
  have hw := workingSetsSound_iff.1 hs hr
  exact ⟨fun _ _ _ => hw.at_most_two, fun _ _ => hw.context_of_two, hw.none_of_idle⟩

end Sys2Proof
end
